-- ==== Sys2Proof/Word.lean ====
section
/-! DEFINITION. The widths of the FFA: bytes, motion fields, payloads and command words (00_scope R6, R7). -/

namespace Sys2Proof

/-- One frame byte, one control byte, one output transfer (R6: `CTRL_WIDTH`, `ACC_WIDTH`, `OUT_WIDTH`). -/
abbrev Byte := BitVec 8

/-- One motion field (R6: `MOTION_WIDTH`). -/
abbrev Motion := BitVec 16

/-- The operand of a command, `cmd_payload` (R6: `CMD_PAYLOAD_WIDTH` = 6×16 + 3×8). -/
abbrev Payload := BitVec 120

/-- One command word, `cmd_op` above `cmd_payload` (R74). -/
abbrev CmdWord := BitVec 122

end Sys2Proof
end

