-- ==== Sys2Proof/Syntax.lean ====
section
/-! DEFINITION. The commands of FFA-CMD v1, the Packet a LOAD carries, the values on the ports, and the
assembler's source lines (10_state R20, R33; 30_encoding R76, R83 to R85). -/

namespace Sys2Proof

/-- A Packet: six motion fields and three control bytes, in frame order (R20). Every value of every field is legal (R21). -/
structure Packet where
  base          : Motion
  shoulder      : Motion
  elbow         : Motion
  wristAngle    : Motion
  wristRotation : Motion
  gripper       : Motion
  delta         : Byte
  button        : Byte
  ext           : Byte
  deriving DecidableEq, Repr, Inhabited

/-- The commands, one constructor per row of the opcode table (R76). Each carries exactly the payload bits it reads
(R78): an ignored bit is no part of an instruction. -/
inductive Instr where
  | illegal
  | load (p : Packet)
  | setExt (v8 : Byte)
  | emit
  deriving DecidableEq, Repr

/-- The four values of `cmd_op` by name (R76). -/
inductive Opcode where
  | illegal
  | load
  | setExt
  | emit
  deriving DecidableEq, Repr

/-- The opcode a command is spelled with. -/
def Instr.opcode : Instr → Opcode
  | .illegal  => .illegal
  | .load _   => .load
  | .setExt _ => .setExt
  | .emit     => .emit

/-- What the host and the sink drive at one rising edge (R33): the input ports but the clock. -/
structure PortIn where
  rst        : Bool
  cmdValid   : Bool
  cmdOp      : BitVec 2
  cmdPayload : Payload
  outReady   : Bool
  deriving DecidableEq, Repr, Inhabited

/-- The command word on the port, `{cmd_op, cmd_payload}` (R74). -/
def PortIn.word (p : PortIn) : CmdWord := p.cmdOp ++ p.cmdPayload

/-- What the FFA drives (R33): the output ports. -/
structure PortOut where
  cmdReady : Bool
  outValid : Bool
  outData  : Byte
  outLast  : Bool
  status   : BitVec 4
  pktQ     : Payload
  deriving DecidableEq, Repr, Inhabited

/-- The mnemonics of the assembler: three commands, the raw word, and the pseudo-instructions (R83, R84). -/
inductive Mnemonic where
  | load
  | setExt
  | emit
  | word
  | emitx
  | stop
  | resetArm
  | sleep
  | send
  deriving DecidableEq, Repr

/-- One source line after reading: a mnemonic and its operands as the numbers written, of any size (R83). -/
structure AsmLine where
  mnemonic : Mnemonic
  operands : List Nat
  deriving DecidableEq, Repr

/-- Why the assembler refuses a line: the two reasons of R85, and the two ways a line's text is no line of R83. The
last two, and which reason a line gets that is wrong in several ways, are a DESIGN CHOICE: log entry 12. -/
inductive AsmError where
  | operandCount     -- R85: a wrong operand count
  | operandRange     -- R85: an operand outside its field's width
  | unknownMnemonic  -- the first word of the line is no mnemonic of R83 or R84
  | badNumber        -- an operand that is neither decimal nor hexadecimal with 0x (R83)
  deriving DecidableEq, Repr

/-- What the assembler answers: the command words, or the number of the first refused line and the reason (R85). -/
inductive AsmResult where
  | ok (words : List CmdWord)
  | refused (line : Nat) (why : AsmError)
  deriving DecidableEq, Repr

end Sys2Proof
end

