-- ==== Sys2Proof/Config.lean ====
section
/-! DEFINITION. The fixed parameters of the FFA (00_scope R6; 93_implementation_defined I1) and the free values: what the
spec leaves open, as constants without a body. -/

namespace Sys2Proof

/-- `HEADER`, the byte at frame offset 0 (R6, R73). -/
def Config.header : Byte := 0xFF

/-- `CK_MOD`, the checksum's reduction modulus: 255, not 256 (R6, R103). -/
def Config.ckMod : Byte := 255

/-- `FRAME_LEN`, the bytes of a frame (R6, R70). -/
def Config.frameLen : Nat := 17

/-- The named values of the extended byte (R6). The FFA treats them like any other value (R93). -/
def Config.stopCode : Byte := 17

/-- RESET = 64 (R6): it resets the arm controller, not the FFA (R80). -/
def Config.resetCode : Byte := 64

/-- SLEEP = 96 (R6): it puts no FFA to sleep (R80). -/
def Config.sleepCode : Byte := 96

/-- FREE VALUE: the input ports of the FFA with stream number `i` at its edge number `n`, once its listed inputs are used up. Host
and sink are free inputs of the step (R11), and each FFA has its own ports and reset (R131); log entries 3 and 10. -/
opaque Config.freePortIn : Nat → Nat → PortIn

/-- FREE VALUE: every output port before the first reset (R141), by stream and edge number; log entries 2 and 10. -/
opaque Config.freePortOut : Nat → Nat → PortOut

/-- FREE VALUE: `out_data` while `out_valid` is 0 (R35, I3), by stream and edge number; log entries 4 and 10. -/
opaque Config.freeOutData : Nat → Nat → Byte

/-- FREE VALUE: `PktByte(p, k)` for a `k` outside 1 to 15, which R101 does not define; log entry 5. -/
opaque Config.freePktByte : Packet → Nat → Byte

end Sys2Proof
end

