-- ==== Sys2Proof/Machine/Operands.lean ====
section
/-! DEFINITION. The bytes of a Packet: the big-endian split and the payload bytes (20_memory R51; 30_encoding R72;
41_frame_emit R101). -/

namespace Sys2Proof.Machine

/-- The high byte of a motion field, `v[15:8]` (R72). -/
def highByte (v : Motion) : Byte := v.extractLsb' 8 8

/-- The low byte of a motion field, `v[7:0]` (R72). -/
def lowByte (v : Motion) : Byte := v.extractLsb' 0 8

/-- `PktByte(p, k)`, the payload byte at frame offset `k`, 1 ≤ k ≤ 15 (R101). R101 says nothing of another `k`: there the
byte is a free value (log entry 5). -/
def pktByte (p : Packet) : Nat → Byte
  | 1  => highByte p.base
  | 2  => lowByte p.base
  | 3  => highByte p.shoulder
  | 4  => lowByte p.shoulder
  | 5  => highByte p.elbow
  | 6  => lowByte p.elbow
  | 7  => highByte p.wristAngle
  | 8  => lowByte p.wristAngle
  | 9  => highByte p.wristRotation
  | 10 => lowByte p.wristRotation
  | 11 => highByte p.gripper
  | 12 => lowByte p.gripper
  | 13 => p.delta
  | 14 => p.button
  | 15 => p.ext
  | k  => Config.freePktByte p k

/-- `PktByte(p, 1)` to `PktByte(p, n)`, in frame order. -/
def pktBytes (p : Packet) (n : Nat) : List Byte := (List.range' 1 n).map (pktByte p)

end Sys2Proof.Machine
end

