-- ==== Sys2Proof/Machine/Frame.lean ====
section
/-! DEFINITION. Serialization as a pure function of the Packet: the checksum and the frame (41_frame_emit R100 to R104). -/

namespace Sys2Proof.Machine

/-- The 8-bit sum with wraparound of a list of bytes (R103's S8, R107). -/
def sum8 (bs : List Byte) : Byte := bs.foldl (· + ·) 0

/-- Reduce modulo 255, then complement: `(~(s mod 255)) & 0xFF` (R103, R109). -/
def complementMod (s : Byte) : Byte := ~~~ (s % Config.ckMod)

/-- `Checksum(p)`, over payload bytes 1 to 15 (R103; 90_conflicts C1 to C3). -/
def checksum (p : Packet) : Byte := complementMod (sum8 (pktBytes p 15))

/-- `Frame(p)`: the header, the fifteen payload bytes, the checksum (R104). -/
def frame (p : Packet) : List Byte := Config.header :: (pktBytes p 15 ++ [checksum p])

end Sys2Proof.Machine
end

