-- ==== Sys2Proof/Machine/State.lean ====
section
/-! DEFINITION. The state of one FFA as plain data, its value after reset, and the ways a step can stop
(10_state R20 to R37; 20_memory R58; 70_reset_and_hazards R140, R141). -/

namespace Sys2Proof.Machine

/-- Faults: there is none. No command traps or stops the FFA: an error sets a sticky bit and the command completes
(R124, R127, R134), and a frame that no sink takes only holds (R154). -/
inductive Fault where
  deriving DecidableEq, Repr

/-- The ways a step is refused. -/
inductive Refusal where
  /-- Raised by `exec` for a command that has no meaning yet; no arm of it answers so. Safe. -/
  | notModelled (mnemonic : String)
  /-- Raised by `clockEdge` at an edge with `rst = 0` before the first reset: the spec gives such edges no meaning,
  "they are refused" (R141, I4). Safe. -/
  | beforeReset
  deriving DecidableEq, Repr

/-- The spec's two levels of semantics (R9): at the transaction level an accepted EMIT appends its 17 bytes at once, at the
cycle level the emitter moves one byte per output handshake. Log entry 1. -/
inductive Level where
  | transaction
  | cycle
  deriving DecidableEq, Repr

/-- The two error causes (R120, R121). -/
inductive Cause where
  | illegalOp
  | noPacket
  deriving DecidableEq, Repr

/-- What one rising edge is (R113): exactly one of the five kinds, or an edge before the first reset (R141). -/
inductive EdgeKind where
  | reset
  | beforeReset
  | accept (w : CmdWord)
  | transfer
  | hold
  | idle
  deriving DecidableEq, Repr

/-- One FFA. The first nine fields are the spec's (R37); the last five are the model's own (INVENTORY.md). -/
structure State where
  /-- the packet register (R20) -/
  pkt        : Packet
  /-- `pkt_valid` (R24) -/
  pktValid   : Bool
  /-- a frame is in flight (R25) -/
  busy       : Bool
  /-- the frame offset now presented (R26) -/
  idx        : BitVec 5
  /-- the checksum accumulator (R27) -/
  acc        : Byte
  /-- sticky IllegalOp bit (R28) -/
  errIllegal : Bool
  /-- sticky NoPacket bit (R29) -/
  errNopkt   : Bool
  /-- the bytes transferred since the last reset, in transfer order (R58) -/
  out        : List Byte
  /-- a rising edge with `rst = 1` has been seen since power-on (R141; log entry 2) -/
  hasReset   : Bool
  /-- the level of semantics this FFA is run at (R9; log entry 1) -/
  level      : Level
  /-- what host and sink drive at the coming edges, the next one first (R11, R152; log entry 3) -/
  inputs     : List PortIn
  /-- the number of edges stepped, so that each free value is fresh (log entry 3) -/
  edge       : Nat
  /-- which stream of free values this FFA's ports draw from: FFAs of a system have different ones (R131; log entry 10). No
  register of the FFA and no identifier: nothing but the free values reads it -/
  stream     : Nat
  deriving DecidableEq, Repr

/-- The machine right after reset: every field of R37's table at its value. The model's own fields: log entries 1 to 3 and 10. -/
def State.reset : State where
  pkt        := ⟨0, 0, 0, 0, 0, 0, 0, 0, 0⟩
  pktValid   := false
  busy       := false
  idx        := 0
  acc        := 0
  errIllegal := false
  errNopkt   := false
  out        := []
  hasReset   := true
  level      := .transaction
  inputs     := []
  edge       := 0
  stream     := 0

end Sys2Proof.Machine
end

