-- ==== Sys2Proof/Machine/Flags.lean ====
section
/-! DEFINITION. The status word and the error causes' codes (10_state R30; 60_exceptions R120, R121). -/

namespace Sys2Proof.Machine

/-- `status = {err_nopkt, err_illegal, busy, pkt_valid}` (R30). -/
def State.status (s : State) : BitVec 4 :=
  BitVec.ofBool s.errNopkt ++ BitVec.ofBool s.errIllegal ++ BitVec.ofBool s.busy ++ BitVec.ofBool s.pktValid

/-- The cause code of an error (R120, R121). No register records it. -/
def Cause.code : Cause → Nat
  | .illegalOp => 1
  | .noPacket  => 2

/-- The status bit a cause sets (R120, R121). -/
def Cause.statusBit : Cause → Nat
  | .illegalOp => 2
  | .noPacket  => 3

end Sys2Proof.Machine
end

