-- ==== Sys2Proof/Machine/Ops.lean ====
section
/-! DEFINITION. The named operations on the state, each the pseudocode of a rule: raising an error, writing the packet
register, emitting bytes, starting a frame, and the reset edge. The FFA has no trap and so no return from one (60_exceptions
R127, R128): raising an error is the whole of it. -/

namespace Sys2Proof.Machine

/-- `raise c`: set the cause's sticky bit and change nothing else (R120, R121, R124). -/
def State.raise (s : State) : Cause → State
  | .illegalOp => { s with errIllegal := true }
  | .noPacket  => { s with errNopkt := true }

/-- Write all nine fields and `pkt_valid` as one update (R90, R54). -/
def State.loadPacket (s : State) (p : Packet) : State := { s with pkt := p, pktValid := true }

/-- Write `pkt.ext` and no other field (R91). -/
def State.overrideExt (s : State) (v8 : Byte) : State := { s with pkt := { s.pkt with ext := v8 } }

/-- `Emit(b)`: append `b` to the output byte history (R58). -/
def State.emitByte (s : State) (b : Byte) : State := { s with out := s.out ++ [b] }

/-- `Emit` each byte of a list, in order (R105). -/
def State.emitBytes (s : State) (bs : List Byte) : State := bs.foldl State.emitByte s

/-- Put a frame in flight: `busy <- 1; idx <- 0; acc <- 0` (R108). -/
def State.startFrame (s : State) : State := { s with busy := true, idx := 0, acc := 0 }

/-- An edge with `rst = 1`: every piece of the spec's state takes its reset value (R140, R37). What the outside drives, the
level, the edge count and the stream of free values are no state of the FFA and stay. -/
def State.resetEdge (s : State) : State :=
  { State.reset with level := s.level, inputs := s.inputs, edge := s.edge, stream := s.stream }

/-- What host and sink drive at the coming edge: the listed inputs, and a free value once they are used up (log entry 3). -/
def State.portIn (s : State) : PortIn :=
  match s.inputs with
  | p :: _ => p
  | []     => Config.freePortIn s.stream s.edge

/-- Pass one edge of the outside: its inputs are used and the edge is counted (log entry 3). -/
def State.advance (s : State) : State := { s with inputs := s.inputs.tail, edge := s.edge + 1 }

end Sys2Proof.Machine
end

