-- ==== Sys2Proof/Machine/Emitter.lean ====
section
/-! DEFINITION. The cycle-level emitter: the byte presented at offset `idx` and the transfer edge (41_frame_emit R109, R110). -/

namespace Sys2Proof.Machine

/-- The presented byte is the checksum, frame byte 16 (R35, R109). -/
def State.atLast (s : State) : Bool := s.idx.toNat == Config.frameLen - 1

/-- `FrameByteAt(idx)` (R109): the header, a payload byte, or the checksum from the accumulator. For the offsets 17 to 31,
which no run reaches (R26), `pktByte` is a free value (log entry 5). -/
def State.frameByteAt (s : State) : Byte :=
  if s.idx = 0 then Config.header
  else if s.atLast then complementMod s.acc
  else pktByte s.pkt s.idx.toNat

/-- A transfer edge (R110): the presented byte is emitted, a payload byte is added to `acc`, and `idx` moves on; byte 16 ends
the frame. -/
def State.transferByte (s : State) : State :=
  let b := s.frameByteAt
  let t := s.emitByte b
  if s.atLast then { t with busy := false, idx := 0, acc := 0 }
  else if 1 ≤ s.idx.toNat ∧ s.idx.toNat ≤ 15 then { t with acc := s.acc + b, idx := s.idx + 1 }
  else { t with idx := s.idx + 1 }

end Sys2Proof.Machine
end

