-- ==== Sys2Proof/Machine/FrameEmit.lean ====
section
/-! DEFINITION. The EMIT command at both levels of semantics (41_frame_emit R105, R108). -/

namespace Sys2Proof.Machine

/-- EMIT. Without a Packet it raises NoPacket at either level (R105, R108). With one, the transaction level emits the 17
bytes of `Frame(pkt)` in offset order (R105), and the cycle level puts the frame in flight (R108), whose bytes then move one
per transfer edge (R110). -/
def execEmit (s : State) : Host.Outcome State Fault Refusal :=
  if s.pktValid then
    match s.level with
    | .transaction => .next (s.emitBytes (frame s.pkt))
    | .cycle       => .next s.startFrame
  else .next (s.raise .noPacket)

end Sys2Proof.Machine
end

