-- ==== Sys2Proof/Machine/PacketOps.lean ====
section
/-! DEFINITION. The packet-register commands ILLEGAL, LOAD and SET_EXT (40_packet_ops). -/

namespace Sys2Proof.Machine

/-- ILLEGAL, the reserved opcode (R92): raises IllegalOp, and `pkt_valid` is not consulted (R125). -/
def execIllegal (s : State) : Host.Outcome State Fault Refusal :=
  .next (s.raise .illegalOp)

/-- LOAD (R90): the whole Packet is replaced and `pkt_valid` set; no value is checked (R21, R93). -/
def execLoad (p : Packet) (s : State) : Host.Outcome State Fault Refusal :=
  .next (s.loadPacket p)

/-- SET_EXT (R91): the extended byte is replaced, whatever the value (R93); without a Packet it raises NoPacket. -/
def execSetExt (v8 : Byte) (s : State) : Host.Outcome State Fault Refusal :=
  if s.pktValid then .next (s.overrideExt v8) else .next (s.raise .noPacket)

end Sys2Proof.Machine
end

