-- ==== Sys2Proof/Machine/Dispatch.lean ====
section
/-! DEFINITION. One arm per command: its effect at the edge that accepts it. -/

namespace Sys2Proof.Machine

def exec (i : Instr) (s : State) : Host.Outcome State Fault Refusal :=
  match i with
  | .illegal => Sys2Proof.Machine.execIllegal s
  | .load p => Sys2Proof.Machine.execLoad p s
  | .setExt v8 => Sys2Proof.Machine.execSetExt v8 s
  | .emit => Sys2Proof.Machine.execEmit s

end Sys2Proof.Machine
end

