-- ==== Sys2Proof/Decode.lean ====
section
/-! DEFINITION. The command word: decoder, encoder, and the payload layout (30_encoding R74 to R83). Decoding is total
and refuses no word (R81): the reserved opcode decodes to ILLEGAL (R79). -/

namespace Sys2Proof

/-- The value of `cmd_op` for an opcode (R76). -/
def Opcode.bits : Opcode → BitVec 2
  | .illegal => 0b00
  | .load    => 0b01
  | .setExt  => 0b10
  | .emit    => 0b11

/-- The opcode a value of `cmd_op` names (R76). -/
def Opcode.ofBits (op : BitVec 2) : Opcode :=
  if op = 0b01 then .load
  else if op = 0b10 then .setExt
  else if op = 0b11 then .emit
  else .illegal

/-- `cmd_op`, bits 121:120 of the word (R74). -/
def CmdWord.op (w : CmdWord) : BitVec 2 := w.extractLsb' 120 2

/-- `cmd_payload`, bits 119:0 of the word (R74). -/
def CmdWord.payload (w : CmdWord) : Payload := w.extractLsb' 0 120

/-- The word with this opcode and this payload (R74). -/
def CmdWord.ofParts (op : BitVec 2) (pl : Payload) : CmdWord := op ++ pl

/-- The Packet a payload spells (R77, R90). -/
def Packet.ofPayload (pl : Payload) : Packet where
  base          := pl.extractLsb' 104 16
  shoulder      := pl.extractLsb' 88 16
  elbow         := pl.extractLsb' 72 16
  wristAngle    := pl.extractLsb' 56 16
  wristRotation := pl.extractLsb' 40 16
  gripper       := pl.extractLsb' 24 16
  delta         := pl.extractLsb' 16 8
  button        := pl.extractLsb' 8 8
  ext           := pl.extractLsb' 0 8

/-- The payload that spells a Packet, frame byte 1 most significant (R77, and R36's `pkt_q`). -/
def Packet.toPayload (p : Packet) : Payload :=
  p.base ++ p.shoulder ++ p.elbow ++ p.wristAngle ++ p.wristRotation ++ p.gripper ++ p.delta ++ p.button ++ p.ext

/-- The command a word spells, from `cmd_op` alone (R75, R76, R81); it takes the payload bits R78 says it reads. -/
def decode (w : CmdWord) : Instr :=
  match Opcode.ofBits (CmdWord.op w) with
  | .illegal => .illegal
  | .load    => .load (Packet.ofPayload (CmdWord.payload w))
  | .setExt  => .setExt ((CmdWord.payload w).extractLsb' 0 8)
  | .emit    => .emit

/-- The payload the assembler writes for a command: ignored bits are zero (R78, R83). -/
def Instr.payload : Instr → Payload
  | .illegal   => 0
  | .load p    => p.toPayload
  | .setExt v8 => v8.setWidth 120
  | .emit      => 0

/-- The word the assembler writes for a command (R83). -/
def encode (i : Instr) : CmdWord := CmdWord.ofParts i.opcode.bits i.payload

/-- The command of an instruction given as the opcode table numbers its bits: `cmd_op` in bits 1:0, as the rows' "fixed"
bits have it, and the payload counting on from bit 2. A number above 122 bits is no command word. Log entry 7. -/
def decodeTableWord (nbits w : Nat) : Option Instr :=
  let v := w % 2 ^ nbits
  if v < 2 ^ 122 then some (decode (CmdWord.ofParts (BitVec.ofNat 2 v) (BitVec.ofNat 120 (v / 4)))) else none

end Sys2Proof
end

