-- ==== Sys2Proof/Machine/Ports.lean ====
section
/-! DEFINITION. The ports: ready, valid, the presented byte, the readback, and what an edge is
(10_state R33 to R36; 41_frame_emit R113). -/

namespace Sys2Proof.Machine

/-- `cmd_ready = (busy = 0) and (rst = 0)` (R34). -/
def State.cmdReady (s : State) (rst : Bool) : Bool := !s.busy && !rst

/-- `out_valid = (busy = 1) and (rst = 0)` (R35). -/
def State.outValid (s : State) (rst : Bool) : Bool := s.busy && !rst

/-- `out_data`: the presented byte while `out_valid = 1` (R35), a free value otherwise (log entry 4). -/
def State.outData (s : State) (rst : Bool) : Byte :=
  if s.outValid rst then s.frameByteAt else Config.freeOutData s.stream s.edge

/-- `out_last`: the presented byte is frame byte 16 (R35). -/
def State.outLast (s : State) (rst : Bool) : Bool := s.outValid rst && s.atLast

/-- `pkt_q`: the packet register in the payload layout (R36). -/
def State.pktQ (s : State) : Payload := s.pkt.toPayload

/-- All output ports; before the first reset they are unspecified (R141), a free value (log entry 2). -/
def State.portOut (s : State) (rst : Bool) : PortOut :=
  if s.hasReset then
    { cmdReady := s.cmdReady rst
      outValid := s.outValid rst
      outData  := s.outData rst
      outLast  := s.outLast rst
      status   := s.status
      pktQ     := s.pktQ }
  else Config.freePortOut s.stream s.edge

/-- A command is accepted at this edge (R34). -/
def State.accepts (s : State) (p : PortIn) : Bool := p.cmdValid && s.cmdReady p.rst

/-- A byte is transferred at this edge (R35). -/
def State.transfers (s : State) (p : PortIn) : Bool := s.outValid p.rst && p.outReady

/-- What an edge with these port inputs is (R113; reset first, R125, R140; R141 before the first reset). -/
def State.edgeKind (s : State) (p : PortIn) : EdgeKind :=
  if p.rst then .reset
  else if !s.hasReset then .beforeReset
  else if s.accepts p then .accept p.word
  else if s.transfers p then .transfer
  else if s.busy then .hold
  else .idle

end Sys2Proof.Machine
end

