-- ==== Sys2Proof/Machine/Edge.lean ====
section
/-! DEFINITION. One rising edge of the clock, by its kind (41_frame_emit R108 to R113; 70_reset_and_hazards R140, R141), and
the port inputs that offer a command. -/

namespace Sys2Proof.Machine

/-- One rising edge with port inputs `p`: reset (R140), refused before the first reset (R141), an accepted command (R34),
a transferred byte (R110), a hold (R111) or an idle edge (R112). -/
def clockEdge (p : PortIn) (s : State) : Host.Outcome State Fault Refusal :=
  match s.edgeKind p with
  | .reset       => .next s.resetEdge
  | .beforeReset => .refused .beforeReset
  | .accept w    => exec (decode w) s
  | .transfer    => .next s.transferByte
  | .hold        => .next s
  | .idle        => .next s

/-- Port inputs that offer a command, with no reset. -/
def offer (op : BitVec 2) (pl : Payload) : PortIn where
  rst        := false
  cmdValid   := true
  cmdOp      := op
  cmdPayload := pl
  outReady   := false

/-- The state with this command offered at the very next edge and the FFA ready to accept it: after a reset and with no frame
in flight. The command is numbered as the opcode table numbers it (log entry 7). -/
def State.offered (s : State) (nbits w : Nat) : State :=
  let v := w % 2 ^ nbits
  { s with
    inputs   := offer (BitVec.ofNat 2 v) (BitVec.ofNat 120 (v / 4)) :: s.inputs
    hasReset := true
    busy     := false
    idx      := 0
    acc      := 0 }

end Sys2Proof.Machine
end

