-- ==== Sys2Proof/Machine/Step.lean ====
section
/-! DEFINITION. The step: one rising edge of the clock (00_scope R11). -/

namespace Sys2Proof.Machine

/-- One rising edge with what host and sink drive there. -/
def step (s : State) : Host.Outcome State Fault Refusal := clockEdge s.portIn s.advance

/-- `s` with a command offered at the next edge, so that the very next step accepts and runs it (log entry 7). -/
def State.withFetchWord (s : State) (nbits w : Nat) : State := s.offered nbits w

end Sys2Proof.Machine
end

