-- ==== Sys2Proof/WellFormed.lean ====
section
/-! DEFINITION. Which source lines the assembler takes (30_encoding R83 to R85). A command itself needs no check: its
fields have exactly their ports' widths and every value is legal (R21, R72, R85), so every `Instr` is well formed. -/

namespace Sys2Proof

/-- The widths of a mnemonic's operands, in order (R83, R84, R85). -/
def Mnemonic.widths : Mnemonic → List Nat
  | .load     => [16, 16, 16, 16, 16, 16, 8, 8, 8]
  | .setExt   => [8]
  | .emit     => []
  | .word     => [2, 120]
  | .emitx    => [8]
  | .stop     => []
  | .resetArm => []
  | .sleep    => []
  | .send     => [16, 16, 16, 16, 16, 16, 8, 8, 8]

/-- R85's first check: the line has as many operands as its mnemonic takes. -/
def AsmLine.countOk (l : AsmLine) : Bool := l.operands.length == l.mnemonic.widths.length

/-- R85's second check: every operand fits its field's width. -/
def AsmLine.rangeOk (l : AsmLine) : Bool :=
  (l.operands.zip l.mnemonic.widths).all fun vw => decide (vw.1 < 2 ^ vw.2)

/-- A line the assembler takes. -/
def AsmLine.wellFormed (l : AsmLine) : Bool := l.countOk && l.rangeOk

end Sys2Proof
end

