-- ==== Sys2Proof/Machine/Assembler.lean ====
section
/-! DEFINITION. The assembler of FFA-CMD v1: from a source line, and from a text, to command words
(30_encoding R83 to R85). The lexical details R83 leaves open are log entry 6; which reason a refused line
gets is log entry 12. -/

namespace Sys2Proof.Machine

/-- The word of `SET_EXT v` (R83). -/
def setExtWord (v : Nat) : CmdWord := encode (.setExt (BitVec.ofNat 8 v))

/-- `EMITX v`: `SET_EXT v` then `EMIT` (R84). -/
def emitxWords (v : Nat) : List CmdWord := [setExtWord v, encode .emit]

/-- The word of a `LOAD` with these nine operands (R83); another number of operands is no LOAD and has no word. -/
def loadWords : List Nat → List CmdWord
  | [a, b, c, d, e, f, g, h, i] =>
    [encode (.load ⟨BitVec.ofNat 16 a, BitVec.ofNat 16 b, BitVec.ofNat 16 c, BitVec.ofNat 16 d, BitVec.ofNat 16 e,
      BitVec.ofNat 16 f, BitVec.ofNat 8 g, BitVec.ofNat 8 h, BitVec.ofNat 8 i⟩)]
  | _ => []

/-- The words of a line whose operand count is right (R83, R84); a line with another count has none. -/
def asmWords : Mnemonic → List Nat → List CmdWord
  | .load, ops        => loadWords ops
  | .setExt, [v]      => [setExtWord v]
  | .emit, []         => [encode .emit]
  | .word, [op, pl]   => [CmdWord.ofParts (BitVec.ofNat 2 op) (BitVec.ofNat 120 pl)]
  | .emitx, [v]       => emitxWords v
  | .stop, []         => emitxWords Config.stopCode.toNat
  | .resetArm, []     => emitxWords Config.resetCode.toNat
  | .sleep, []        => emitxWords Config.sleepCode.toNat
  | .send, ops        => loadWords ops ++ [encode .emit]
  | _, _              => []

/-- One line: its words, or why it is refused (R85). DESIGN CHOICE, log entry 12: the count is checked before the
ranges, so a line wrong in both is refused for its count. -/
def asmLine (l : AsmLine) : Except AsmError (List CmdWord) :=
  if !l.countOk then .error .operandCount
  else if !l.rangeOk then .error .operandRange
  else .ok (asmWords l.mnemonic l.operands)

/-- A character that separates words. -/
def isBlank (c : Char) : Bool := c == ' ' || c == '\t' || c == '\r'

/-- The text without leading and trailing blanks. -/
def trimBlanks (cs : List Char) : List Char := ((cs.dropWhile isBlank).reverse.dropWhile isBlank).reverse

/-- The pieces of a text between the separators. -/
def splitOnChar (sep : Char) : List Char → List (List Char)
  | []      => [[]]
  | c :: cs =>
    match splitOnChar sep cs with
    | []      => [[c]]
    | p :: ps => if c == sep then [] :: p :: ps else (c :: p) :: ps

/-- The value of a digit in a base up to 16. -/
def digitValue (base : Nat) (c : Char) : Option Nat :=
  let n := c.toUpper.toNat
  let v := if 48 ≤ n ∧ n ≤ 57 then n - 48 else if 65 ≤ n ∧ n ≤ 70 then n - 55 else 16
  if v < base then some v else none

/-- The value of a row of digits, at least one. -/
def digitsValue (base : Nat) : List Char → Option Nat
  | [] => none
  | cs => cs.foldl (fun a c => a.bind fun n => (digitValue base c).map fun d => n * base + d) (some 0)

/-- An operand: decimal, or hexadecimal with `0x` (R83). DESIGN CHOICE, log entries 6 and 12: a sign, a capital `0X`
and an empty piece are no number. -/
def readNumber : List Char → Option Nat
  | '0' :: 'x' :: ds => digitsValue 16 ds
  | ds               => digitsValue 10 ds

/-- The mnemonics by name, in capitals (R83, R84). -/
def mnemonicNames : List (List Char × Mnemonic) :=
  [("LOAD".toList, .load), ("SET_EXT".toList, .setExt), ("EMIT".toList, .emit), (".WORD".toList, .word),
   ("EMITX".toList, .emitx), ("STOP".toList, .stop), ("RESETARM".toList, .resetArm), ("SLEEP".toList, .sleep),
   ("SEND".toList, .send)]

/-- A mnemonic, in capitals or not (R83). -/
def readMnemonic (cs : List Char) : Option Mnemonic := mnemonicNames.lookup (cs.map Char.toUpper)

/-- The operands of a line: numbers between commas, or nothing (R83). -/
def readOperands (cs : List Char) : Option (List Nat) :=
  if cs.isEmpty then some [] else (splitOnChar ',' cs).mapM fun piece => readNumber (trimBlanks piece)

/-- One line of text, its comment dropped (R83): a blank line is no command, any other is read or refused.
DESIGN CHOICE, log entry 12: R85 names no reason for a line that cannot be read, and no order among reasons. Here the
mnemonic is looked up first and then every operand is read, both before the operand count is checked: `SET_EXT 1, x`
is refused as `badNumber`, not for its count. -/
def readLine (cs : List Char) : Except AsmError (Option AsmLine) :=
  let code := trimBlanks (cs.takeWhile (· != ';'))
  let name := code.takeWhile fun c => !isBlank c
  if code.isEmpty then .ok none
  else match readMnemonic name with
    | none   => .error .unknownMnemonic
    | some m =>
      match readOperands (trimBlanks (code.drop name.length)) with
      | none     => .error .badNumber
      | some ops => .ok (some ⟨m, ops⟩)

/-- The words of one line of text: refusals of reading come before those of `asmLine` (DESIGN CHOICE, log entry 12). -/
def asmTextLine (cs : List Char) : Except AsmError (List CmdWord) :=
  match readLine cs with
  | .error e       => .error e
  | .ok none       => .ok []
  | .ok (some l)   => asmLine l

/-- The lines from number `n` on, in order; the first refused line ends the work (R85). -/
def asmLines : Nat → List (List Char) → AsmResult
  | _, []      => .ok []
  | n, l :: ls =>
    match asmTextLine l with
    | .error e => .refused n e
    | .ok ws   =>
      match asmLines (n + 1) ls with
      | .ok more     => .ok (ws ++ more)
      | .refused k e => .refused k e

/-- A source text, one command a line, the first line being number 1 (R83). -/
def assemble (text : String) : AsmResult := asmLines 1 (splitOnChar '\n' text.toList)

end Sys2Proof.Machine
end

