-- ==== Sys2Proof/Machine/Run.lean ====
section
/-! DEFINITION. Runs of edges: the commands a run accepts, where the run of a command sequence ends, and what is observed there
(70_reset_and_hazards R153, R156). -/

namespace Sys2Proof.Machine

/-- `k` edges, stopping at the first refusal. -/
abbrev run (k : Nat) (s : State) : Host.Outcome State Fault Refusal := Host.Core.run Sys2Proof.core k s

/-- The command accepted at the coming edge, if there is one (R34). A command offered at an edge with `rst = 1`, or while a frame is
in flight, is not accepted (R146, R156). -/
def State.acceptedWord (s : State) : Option CmdWord :=
  match s.edgeKind s.portIn with
  | .accept w => some w
  | _         => none

/-- The commands accepted over the next `k` edges, in order. -/
def acceptedWords : Nat → State → List CmdWord
  | 0, _     => []
  | k + 1, s =>
    s.acceptedWord.toList ++
      match step s with
      | .next t => acceptedWords k t
      | _       => []

/-- After `k` edges from `s` exactly the commands of the sequence have been accepted, the state is `t`, and no frame is in flight. -/
def Drained (cmds : List CmdWord) (s : State) (k : Nat) (t : State) : Prop :=
  run k s = .next t ∧ acceptedWords k s = cmds ∧ t.busy = false

/-- The run of a command sequence from `s` ends after `k` edges, in the state `t` (R153): its last command has been accepted,
`busy` is 0, and this is so for the first time. What comes later, a reset or another command, is no part of the run. Log entry 11. -/
def RunEndsAt (cmds : List CmdWord) (s : State) (k : Nat) (t : State) : Prop :=
  Drained cmds s k t ∧ ∀ j < k, ∀ u, ¬Drained cmds s j u

/-- What is observed of a state at the end of a run: the output byte history, `status` and `pkt` (R153). -/
def State.observation (s : State) : List Byte × BitVec 4 × Packet := (s.out, s.status, s.pkt)

end Sys2Proof.Machine
end

