-- ==== Sys2Proof/Machine/System.lean ====
section
/-! DEFINITION. Several FFAs (60_exceptions R131): each has its own state, ports and reset; they share nothing. Their number,
the open parameter N_FFA (92_eei_decisions D19), is the length of the list. -/

namespace Sys2Proof.Machine

/-- The FFAs of a system, by their places in a list. They are read by `System.ffa` only. -/
structure System where
  states : List State
  deriving DecidableEq, Repr

/-- The number of FFAs (N_FFA). -/
def System.size (sys : System) : Nat := sys.states.length

/-- The FFA at place `k`. Its ports are its own: what is left open of them is drawn from the stream of its place, so that
nothing ties one FFA's reset, command or sink to another's (R131; log entry 10). -/
def System.ffa (sys : System) (k : Nat) : Option State :=
  sys.states[k]?.map fun s => { s with stream := k }

/-- A rising edge at FFA number `k` only: its own step, every other FFA untouched (log entry 9). A `k` that names no FFA changes
nothing. -/
def System.stepAt (sys : System) (k : Nat) : Host.Outcome System Fault Refusal :=
  match sys.ffa k with
  | none   => .next sys
  | some s =>
    match step s with
    | .next t    => .next { sys with states := sys.states.set k t }
    | .fault f   => .fault f
    | .refused r => .refused r

end Sys2Proof.Machine
end

