-- ==== Sys2Proof/Safety.lean ====
section
/-! DEFINITION. The terms claims are made in: the invariants of every run, lists of port inputs, and the launch premises
(10_state R38; 20_memory R57; 70_reset_and_hazards R155). -/

namespace Sys2Proof.Machine

/-- R38's invariants of a single state: idle means cleared counters, a frame in flight needs a Packet, `idx` is a frame
offset, and `acc` is the sum of the payload bytes already transferred. -/
abbrev State.Inv (s : State) : Prop :=
  (s.busy = false → s.idx = 0 ∧ s.acc = 0) ∧
  (s.busy = true → s.pktValid = true) ∧
  s.idx.toNat ≤ 16 ∧
  (s.busy = true → s.acc = sum8 (pktBytes s.pkt (s.idx.toNat - 1)))

/-- The output history is whole frames, one after another, and then the bytes of the frame in flight that have been
transferred (R57, R58, R106, R115). -/
def State.OutFramed (s : State) : Prop :=
  ∃ ps : List Packet, s.out = ps.flatMap frame ++ (if s.busy then (frame s.pkt).take s.idx.toNat else [])

/-- No byte is on the wire before a Packet has been constructed (R24, R105). -/
abbrev State.SilentUnloaded (s : State) : Prop := s.pktValid = false → s.out = [] ∧ s.busy = false

/-- What every step keeps. -/
def State.Good (s : State) : Prop := s.Inv ∧ s.OutFramed ∧ s.SilentUnloaded

/-- A list of port inputs with no reset in it. -/
abbrev NoReset (ins : List PortIn) : Prop := ∀ p ∈ ins, p.rst = false

/-- How many edges of a list have the sink ready. -/
def readyEdges (ins : List PortIn) : Nat := ins.countP (·.outReady)

/-- Launch premise *after-reset* (R155): the spec's state of R37, whatever the outside drives and whichever the level. -/
abbrev State.AfterReset (s : State) : Prop := s = s.resetEdge

/-- Launch premise *no-error* (R155). -/
abbrev State.NoError (s : State) : Prop := s.errIllegal = false ∧ s.errNopkt = false

/-- Launch premise *loaded(p)* (R155). -/
abbrev State.Loaded (s : State) (p : Packet) : Prop := s.pktValid = true ∧ s.pkt = p

/-- Launch premise *idle* (R155). -/
abbrev State.Idle (s : State) : Prop := s.busy = false ∧ s.idx = 0 ∧ s.acc = 0

end Sys2Proof.Machine
end

