-- ==== Sys2Proof/Certificates/Slice0/Obligations.lean ====
section
/-! DEFINITION. The statements for the provers. Each docstring names the rule of the spec it formalises. -/

open Sys2Proof Sys2Proof.Machine

/-! ### Reset and power-on -/

/-- R37's table, and the ports and status it names. The model's own fields are not stated. -/
def Obligations.ResetValues : Prop :=
  State.reset.pkt = ⟨0, 0, 0, 0, 0, 0, 0, 0, 0⟩ ∧ State.reset.pktValid = false ∧ State.reset.busy = false ∧
  State.reset.idx = 0 ∧ State.reset.acc = 0 ∧ State.reset.errIllegal = false ∧ State.reset.errNopkt = false ∧
  State.reset.out = [] ∧ State.reset.cmdReady false = true ∧ State.reset.outValid false = false ∧ State.reset.status = 0b0000

/-- R140 and R156: an edge with `rst = 1` leaves the reset values, whatever the state and the other inputs; nothing is
accepted, nothing is transferred, and the ready and valid outputs are 0. -/
def Obligations.ResetEdgeWins : Prop :=
  ∀ s : State, s.portIn.rst = true →
    step s = .next { State.reset with level := s.level, inputs := s.inputs.tail, edge := s.edge + 1, stream := s.stream } ∧
    s.cmdReady true = false ∧ s.outValid true = false ∧ s.accepts s.portIn = false ∧ s.transfers s.portIn = false

/-- R142: one reset edge completes reset, a further one changes nothing more, and the edge after `rst` returns to 0 can accept
a command. -/
def Obligations.OneResetEdgeSuffices : Prop :=
  ∀ s t : State, s.portIn.rst = true → step s = .next t →
    (t.portIn.rst = true → step t = .next { t with inputs := t.inputs.tail, edge := t.edge + 1 }) ∧
    (t.portIn.rst = false → t.portIn.cmdValid = true →
      step t = exec (decode t.portIn.word) { t with inputs := t.inputs.tail, edge := t.edge + 1 })

/-- R141: an edge before the first reset is refused, unless it is that reset. -/
def Obligations.EdgesBeforeResetRefused : Prop :=
  ∀ s : State, s.hasReset = false → s.portIn.rst = false → step s = .refused .beforeReset

/-- After a reset every edge has a next state, and the FFA stays reset. No input, no command and no sink stops it. -/
def Obligations.EveryEdgeHasNextState : Prop :=
  ∀ s : State, s.hasReset = true → ∃ t, step s = .next t ∧ t.hasReset = true

/-- R143: a reset during a frame leaves the sink with exactly the bytes before `idx`, without the last one; afterwards there is
no Packet and no history, and an EMIT raises NoPacket. -/
def Obligations.ResetTruncatesFrame : Prop :=
  ∀ s : State, s.Good → s.busy = true → s.portIn.rst = true →
    (∃ pre, s.out = pre ++ (frame s.pkt).take s.idx.toNat ∧ s.idx.toNat < 17) ∧
    ∃ t, step s = .next t ∧ t.busy = false ∧ t.pktValid = false ∧ t.out = [] ∧
      exec .emit t = .next { t with errNopkt := true }

/-! ### Ports -/

/-- R30: `status = {err_nopkt, err_illegal, busy, pkt_valid}`, as its value and bit by bit. -/
def Obligations.StatusWordLayout : Prop :=
  ∀ s : State,
    s.status.getLsbD 0 = s.pktValid ∧ s.status.getLsbD 1 = s.busy ∧ s.status.getLsbD 2 = s.errIllegal ∧
    s.status.getLsbD 3 = s.errNopkt ∧
    s.status.toNat = 8 * s.errNopkt.toNat + 4 * s.errIllegal.toNat + 2 * s.busy.toNat + s.pktValid.toNat

/-- R34: when the FFA is ready, and when a command is accepted. -/
def Obligations.CommandHandshake : Prop :=
  ∀ (s : State) (p : PortIn),
    (s.cmdReady p.rst = true ↔ s.busy = false ∧ p.rst = false) ∧
    (s.accepts p = true ↔ p.cmdValid = true ∧ s.cmdReady p.rst = true)

/-- R35: the output port, for a presented byte at every offset, and when a byte is transferred. `out_data` is stated only where
`out_valid` is 1. -/
def Obligations.OutputPortDrive : Prop :=
  ∀ (s : State) (p : PortIn),
    (s.outValid p.rst = true ↔ s.busy = true ∧ p.rst = false) ∧
    (s.outValid p.rst = true → s.outData p.rst = s.frameByteAt) ∧
    (s.outLast p.rst = true ↔ s.outValid p.rst = true ∧ s.idx = 16) ∧
    (s.outValid p.rst = false → s.outLast p.rst = false) ∧
    (s.transfers p = true ↔ s.outValid p.rst = true ∧ p.outReady = true)

/-- R36: `pkt_q` is the nine fields in the payload layout, so its byte `k` is `PktByte(pkt, k)`, and after a reset the port always
drives it. R36 gives this relation to the register in every state; that the value is a Packet's is not claimed (I12). -/
def Obligations.ReadbackLayout : Prop :=
  ∀ (s : State),
    s.pktQ = (s.pkt.base ++ s.pkt.shoulder ++ s.pkt.elbow ++ s.pkt.wristAngle ++ s.pkt.wristRotation ++ s.pkt.gripper ++
      s.pkt.delta ++ s.pkt.button ++ s.pkt.ext : Payload) ∧
    Packet.ofPayload s.pktQ = s.pkt ∧
    (s.hasReset = true → ∀ rst, (s.portOut rst).pktQ = s.pktQ) ∧
    ∀ k, 1 ≤ k → k ≤ 15 → s.pktQ.extractLsb' (120 - 8 * k) 8 = pktByte s.pkt k

/-- R113: an accept and a transfer never share an edge, and after a reset an edge is exactly the one kind its condition says. -/
def Obligations.EveryEdgeIsOneKind : Prop :=
  ∀ (s : State) (p : PortIn),
    ¬(s.accepts p = true ∧ s.transfers p = true) ∧
    (s.hasReset = true →
      (s.edgeKind p = .reset ↔ p.rst = true) ∧
      (s.edgeKind p = .accept p.word ↔ s.accepts p = true) ∧
      (s.edgeKind p = .transfer ↔ s.transfers p = true) ∧
      (s.edgeKind p = .hold ↔ s.outValid p.rst = true ∧ p.outReady = false) ∧
      (s.edgeKind p = .idle ↔ p.rst = false ∧ s.busy = false ∧ s.accepts p = false) ∧
      s.edgeKind p ≠ .beforeReset)

/-! ### The Packet's bytes, the checksum and the frame -/

/-- R101: the fifteen payload bytes, as the arithmetic of the source's step 1. -/
def Obligations.PayloadByteTable : Prop :=
  ∀ p : Packet,
    (pktByte p 1).toNat = p.base.toNat / 256 % 256 ∧ (pktByte p 2).toNat = p.base.toNat % 256 ∧
    (pktByte p 3).toNat = p.shoulder.toNat / 256 % 256 ∧ (pktByte p 4).toNat = p.shoulder.toNat % 256 ∧
    (pktByte p 5).toNat = p.elbow.toNat / 256 % 256 ∧ (pktByte p 6).toNat = p.elbow.toNat % 256 ∧
    (pktByte p 7).toNat = p.wristAngle.toNat / 256 % 256 ∧ (pktByte p 8).toNat = p.wristAngle.toNat % 256 ∧
    (pktByte p 9).toNat = p.wristRotation.toNat / 256 % 256 ∧ (pktByte p 10).toNat = p.wristRotation.toNat % 256 ∧
    (pktByte p 11).toNat = p.gripper.toNat / 256 % 256 ∧ (pktByte p 12).toNat = p.gripper.toNat % 256 ∧
    pktByte p 13 = p.delta ∧ pktByte p 14 = p.button ∧ pktByte p 15 = p.ext

/-- R72: the split of a motion value and its round trip; the control bytes are copied unchanged. -/
def Obligations.FieldSplitRoundTrip : Prop :=
  (∀ v : Motion,
    (highByte v).toNat = v.toNat / 256 % 256 ∧ highByte v = v.extractLsb' 8 8 ∧
    (lowByte v).toNat = v.toNat % 256 ∧ lowByte v = v.extractLsb' 0 8 ∧
    (highByte v).toNat * 256 + (lowByte v).toNat = v.toNat) ∧
  (∀ p : Packet, pktByte p 13 = p.delta ∧ pktByte p 14 = p.button ∧ pktByte p 15 = p.ext)

/-- R52: byte `k` of a command payload is payload byte `k` of the Packet it loads, and likewise of `pkt_q`; each motion field is
its two bytes, high byte first. -/
def Obligations.PayloadIsBigEndian : Prop :=
  (∀ (pl : Payload) (k : Nat), 1 ≤ k → k ≤ 15 →
    pl.extractLsb' (120 - 8 * k) 8 = pktByte (Packet.ofPayload pl) k) ∧
  (∀ (s : State) (k : Nat), 1 ≤ k → k ≤ 15 → s.pktQ.extractLsb' (120 - 8 * k) 8 = pktByte s.pkt k) ∧
  (∀ (p : Packet) (i : Fin 6),
    ([p.base, p.shoulder, p.elbow, p.wristAngle, p.wristRotation, p.gripper].get i).toNat =
      (pktByte p (2 * i.val + 1)).toNat * 256 + (pktByte p (2 * i.val + 2)).toNat)

/-- R103: the checksum formula over the exact sum of the fifteen payload bytes, and its three consequences. -/
def Obligations.ChecksumFormula : Prop :=
  ∀ p : Packet, ∀ s8 : Nat, s8 = ((pktBytes p 15).map BitVec.toNat).sum % 256 →
    (checksum p).toNat = 255 - s8 % 255 ∧
    checksum p ≠ 0 ∧
    (checksum p = 0xFF ↔ s8 = 0x00 ∨ s8 = 0xFF) ∧
    (s8 ≤ 254 → (checksum p).toNat = 0xFF - s8)

/-- R104 and R102: the frame, element by element; offsets 13, 14 and 15 carry delta, button and the extended byte unchanged,
whatever their values. -/
def Obligations.FrameAssembly : Prop :=
  ∀ p : Packet, (frame p).length = 17 ∧
    frame p =
      [0xFF, pktByte p 1, pktByte p 2, pktByte p 3, pktByte p 4, pktByte p 5, pktByte p 6, pktByte p 7, pktByte p 8,
       pktByte p 9, pktByte p 10, pktByte p 11, pktByte p 12, pktByte p 13, pktByte p 14, pktByte p 15, checksum p] ∧
    (frame p)[13]? = some p.delta ∧ (frame p)[14]? = some p.button ∧ (frame p)[15]? = some p.ext

/-- R106: what one EMIT with a Packet appends, at the transaction level: 17 bytes, the header first, the fields recoverable, the
checksum right over the bytes sent, and the same bytes from every state with the same Packet. -/
def Obligations.EmittedFrameProperties : Prop :=
  ∀ s : State, s.pktValid = true → s.level = .transaction →
    ∃ f : List Byte, exec .emit s = .next { s with out := s.out ++ f } ∧
      f.length = 17 ∧ f[0]? = some 0xFF ∧
      (∀ i : Fin 6, (f.getD (2 * i.val + 1) 0).toNat * 256 + (f.getD (2 * i.val + 2) 0).toNat =
        ([s.pkt.base, s.pkt.shoulder, s.pkt.elbow, s.pkt.wristAngle, s.pkt.wristRotation, s.pkt.gripper].get i).toNat) ∧
      (f.getD 16 0).toNat = 255 - ((((f.drop 1).take 15).map BitVec.toNat).sum % 256) % 255 ∧
      (∀ s' : State, s'.pktValid = true → s'.level = .transaction → s'.pkt = s.pkt →
        exec .emit s' = .next { s' with out := s'.out ++ f })

/-- R95: a SET_EXT with a Packet changes a frame at most at offsets 15 and 16. -/
def Obligations.OverlayIsolation : Prop :=
  ∀ (s : State) (v : Byte), s.pktValid = true →
    ∃ t, exec (.setExt v) s = .next t ∧ (frame t.pkt).take 15 = (frame s.pkt).take 15 ∧ (frame t.pkt)[15]? = some v

/-- R149: the checksum is a function of the 8-bit payload sum alone, and two Packets share a checksum exactly when their sums
agree or are both of 0x00 and 0xFF. -/
def Obligations.ChecksumBlindSpots : Prop :=
  ∀ p q : Packet,
    (sum8 (pktBytes p 15) = sum8 (pktBytes q 15) → checksum p = checksum q) ∧
    (checksum p = checksum q ↔
      sum8 (pktBytes p 15) = sum8 (pktBytes q 15) ∨
      (sum8 (pktBytes p 15) ∈ [0x00, 0xFF] ∧ sum8 (pktBytes q 15) ∈ [0x00, 0xFF])) ∧
    (sum8 (pktBytes p 15) = 0x00 ∨ sum8 (pktBytes p 15) = 0xFF → checksum p = 0xFF)

/-! ### Encoding -/

/-- Decoding an encoded command gives it back, for every command and every operand. -/
def Obligations.DecodeEncode : Prop :=
  ∀ i : Instr, decode (encode i) = i

/-- R75 and R76: `cmd_op` alone selects the command, by the opcode map; the payload never does. -/
def Obligations.OpcodeAloneSelects : Prop :=
  (∀ w : CmdWord,
    (CmdWord.op w = 0b00 → (decode w).opcode = .illegal) ∧ (CmdWord.op w = 0b01 → (decode w).opcode = .load) ∧
    (CmdWord.op w = 0b10 → (decode w).opcode = .setExt) ∧ (CmdWord.op w = 0b11 → (decode w).opcode = .emit)) ∧
  (∀ w w' : CmdWord, CmdWord.op w = CmdWord.op w' → (decode w).opcode = (decode w').opcode)

/-- R78: the payload bits each command reads, and that the others have no effect on what is decoded, and so on what is done; the
assembler writes them as zero. -/
def Obligations.IgnoredBitsHaveNoEffect : Prop :=
  (∀ v : Byte, CmdWord.payload (encode (.setExt v)) = v.setWidth 120) ∧ CmdWord.payload (encode .emit) = 0 ∧
  CmdWord.payload (encode .illegal) = 0 ∧
  ∀ (op : BitVec 2) (pl pl' : Payload),
    (op = 0b01 → decode (CmdWord.ofParts op pl) = .load (Packet.ofPayload pl)) ∧
    (op = 0b10 → decode (CmdWord.ofParts op pl) = .setExt (pl.extractLsb' 0 8)) ∧
    (op = 0b10 → pl.extractLsb' 0 8 = pl'.extractLsb' 0 8 →
      decode (CmdWord.ofParts op pl) = decode (CmdWord.ofParts op pl')) ∧
    (op = 0b11 → decode (CmdWord.ofParts op pl) = decode (CmdWord.ofParts op pl')) ∧
    (op = 0b00 → decode (CmdWord.ofParts op pl) = decode (CmdWord.ofParts op pl'))

/-- The other direction of the round trip: a word is what the assembler writes for its command exactly when its ignored bits are
zero; so every LOAD word is. -/
def Obligations.EncodeDecode : Prop :=
  ∀ w : CmdWord,
    encode (decode w) = w ↔
      (CmdWord.op w = 0b10 → CmdWord.payload w = ((CmdWord.payload w).extractLsb' 0 8).setWidth 120) ∧
      (CmdWord.op w = 0b00 ∨ CmdWord.op w = 0b11 → CmdWord.payload w = 0)

/-- Four command words of the spec's worked examples (95_test_vectors L-1, X-2, I-2, E-2) decode to what they stand for. -/
def Obligations.WrittenWordsDecode : Prop :=
  decode (CmdWord.ofParts 0b01 0x012C00000000000000000000010011) = .load ⟨300, 0, 0, 0, 0, 0, 1, 0, 17⟩ ∧
  decode (CmdWord.ofParts 0b10 0xABCDEF000000000000000000000060) = .setExt 96 ∧
  decode (CmdWord.ofParts 0b00 0x012C00000000000000000000010011) = .illegal ∧
  decode (CmdWord.ofParts 0b11 0xFFFFFFFFFFFFFFFFFFFFFFFFFFFFFF) = .emit

/-- R85: the assembler takes a line exactly when it has its mnemonic's number of operands and every operand fits its field. -/
def Obligations.AssemblerOperandRefusal : Prop :=
  ∀ l : AsmLine,
    ((∃ ws, asmLine l = .ok ws) ↔
      l.operands.length = l.mnemonic.widths.length ∧
      ∀ (i : Nat) (v w : Nat), l.operands[i]? = some v → l.mnemonic.widths[i]? = some w → v < 2 ^ w)

/-- R84: each pseudo-instruction is its fixed command sequence, for every operand that fits. -/
def Obligations.PseudoInstructionExpansions : Prop :=
  (∀ v : Byte, asmLine ⟨.emitx, [v.toNat]⟩ = .ok [encode (.setExt v), encode .emit]) ∧
  asmLine ⟨.stop, []⟩ = .ok [encode (.setExt 17), encode .emit] ∧
  asmLine ⟨.resetArm, []⟩ = .ok [encode (.setExt 64), encode .emit] ∧
  asmLine ⟨.sleep, []⟩ = .ok [encode (.setExt 96), encode .emit] ∧
  (∀ p : Packet,
    asmLine ⟨.send, [p.base.toNat, p.shoulder.toNat, p.elbow.toNat, p.wristAngle.toNat, p.wristRotation.toNat,
      p.gripper.toNat, p.delta.toNat, p.button.toNat, p.ext.toNat]⟩ = .ok [encode (.load p), encode .emit])

/-- The plain source lines (R83): LOAD, SET_EXT and EMIT write the words that decode to them, and `.word` the word as given. -/
def Obligations.AssembledLinesDecode : Prop :=
  (∀ p : Packet, ∃ w,
    asmLine ⟨.load, [p.base.toNat, p.shoulder.toNat, p.elbow.toNat, p.wristAngle.toNat, p.wristRotation.toNat,
      p.gripper.toNat, p.delta.toNat, p.button.toNat, p.ext.toNat]⟩ = .ok [w] ∧ decode w = .load p) ∧
  (∀ v : Byte, asmLine ⟨.setExt, [v.toNat]⟩ = .ok [CmdWord.ofParts 0b10 (v.setWidth 120)]) ∧
  asmLine ⟨.emit, []⟩ = .ok [CmdWord.ofParts 0b11 0] ∧
  (∀ (op : BitVec 2) (pl : Payload), asmLine ⟨.word, [op.toNat, pl.toNat]⟩ = .ok [CmdWord.ofParts op pl])

/-! ### The commands -/

/-- R90: a word with `cmd_op = 0b01` replaces all nine fields by its payload's and sets `pkt_valid`; nothing else changes. It
completes in every state and with every Packet. -/
def Obligations.LoadConstructsPacket : Prop :=
  ∀ (w : CmdWord) (s : State), CmdWord.op w = 0b01 →
    exec (decode w) s = .next { s with
      pkt :=
        { base          := w.extractLsb' 104 16
          shoulder      := w.extractLsb' 88 16
          elbow         := w.extractLsb' 72 16
          wristAngle    := w.extractLsb' 56 16
          wristRotation := w.extractLsb' 40 16
          gripper       := w.extractLsb' 24 16
          delta         := w.extractLsb' 16 8
          button        := w.extractLsb' 8 8
          ext           := w.extractLsb' 0 8 }
      pktValid := true } ∧
    ∀ p : Packet, exec (.load p) s = .next { s with pkt := p, pktValid := true }

/-- R91: with a Packet, a word with `cmd_op = 0b10` replaces `pkt.ext` alone, by any of the 256 values; without one it raises
NoPacket and nothing else changes. -/
def Obligations.SetExtOverridesExtendedByte : Prop :=
  ∀ (w : CmdWord) (s : State), CmdWord.op w = 0b10 →
    (s.pktValid = true →
      exec (decode w) s = .next { s with pkt := { s.pkt with ext := w.extractLsb' 0 8 } }) ∧
    (s.pktValid = false → exec (decode w) s = .next { s with errNopkt := true }) ∧
    (∀ v8 : Byte, s.pktValid = true → exec (.setExt v8) s = .next { s with pkt := { s.pkt with ext := v8 } })

/-- R92 and R120: a word with `cmd_op = 0b00` sets `err_illegal`, which is `status[2]`, and changes nothing else. -/
def Obligations.IllegalRaisesIllegalOp : Prop :=
  ∀ (w : CmdWord) (s : State), CmdWord.op w = 0b00 →
    exec (decode w) s = .next { s with errIllegal := true } ∧
    exec .illegal s = .next { s with errIllegal := true } ∧
    ({ s with errIllegal := true } : State).status.getLsbD 2 = true ∧ Cause.illegalOp.code = 1

/-- R105: EMIT at the transaction level appends `Frame(pkt)` and changes nothing else; without a Packet it raises NoPacket at
either level. At the cycle level `busy` is 1 from the accept edge until the edge that transfers byte 16. -/
def Obligations.EmitSendsFrame : Prop :=
  ∀ (w : CmdWord) (s : State), CmdWord.op w = 0b11 →
    decode w = .emit ∧
    (s.pktValid = true → s.level = .transaction →
      exec (decode w) s = .next { s with out := s.out ++ frame s.pkt }) ∧
    (s.pktValid = false → exec (decode w) s = .next { s with errNopkt := true }) ∧
    (s.pktValid = true → s.level = .cycle → ∃ t, exec (decode w) s = .next t ∧ t.busy = true) ∧
    (s.hasReset = true → s.busy = true → s.portIn.rst = false →
      ∃ t, step s = .next t ∧ (t.busy = false ↔ s.portIn.outReady = true ∧ s.idx = 16))

/-- R108: EMIT at its accept edge at the cycle level; from the next state on `out_valid = 1` and `cmd_ready = 0`. -/
def Obligations.EmitAcceptStartsFrame : Prop :=
  ∀ s : State, s.level = .cycle →
    (s.pktValid = false → exec .emit s = .next { s with errNopkt := true }) ∧
    (s.pktValid = true → exec .emit s = .next { s with busy := true, idx := 0, acc := 0 } ∧
      ({ s with busy := true, idx := 0, acc := 0 } : State).outValid false = true ∧
      ({ s with busy := true, idx := 0, acc := 0 } : State).cmdReady false = false)

/-- R121: a SET_EXT or an EMIT without a Packet sets `err_nopkt`, which is `status[3]`, and changes nothing else, at either
level and whatever the operand. -/
def Obligations.NoPacketRaised : Prop :=
  ∀ s : State, s.pktValid = false →
    (∀ v, exec (.setExt v) s = .next { s with errNopkt := true }) ∧ exec .emit s = .next { s with errNopkt := true } ∧
    ({ s with errNopkt := true } : State).status.getLsbD 3 = true ∧ Cause.noPacket.code = 2

/-- R55: two EMITs with nothing between append the same frame twice and leave the Packet; LOAD and SET_EXT repeated with the same
operand change nothing more. -/
def Obligations.CommandsRepeat : Prop :=
  (∀ s : State, s.pktValid = true → s.level = .transaction →
    ∃ t u, exec .emit s = .next t ∧ exec .emit t = .next u ∧ u.out = s.out ++ (frame s.pkt ++ frame s.pkt) ∧
      u.pkt = s.pkt ∧ u.pktValid = true) ∧
  (∀ (s : State) (p : Packet), ∃ t, exec (.load p) s = .next t ∧ exec (.load p) t = .next t) ∧
  (∀ (s : State) (v : Byte), ∃ t, exec (.setExt v) s = .next t ∧ exec (.setExt v) t = .next t)

/-- The frame of every command: LOAD changes only the Packet and `pkt_valid`; SET_EXT only the extended byte or `err_nopkt`;
ILLEGAL only `err_illegal`; EMIT only the output history, or the emitter, or `err_nopkt`. There is no memory. -/
def Obligations.CommandFrames : Prop :=
  ∀ (i : Instr) (s t : State), exec i s = .next t →
    t.hasReset = s.hasReset ∧ t.level = s.level ∧ t.inputs = s.inputs ∧ t.edge = s.edge ∧ t.stream = s.stream ∧
    (i ≠ .emit → t.out = s.out ∧ t.busy = s.busy ∧ t.idx = s.idx ∧ t.acc = s.acc) ∧
    (i ≠ .illegal → t.errIllegal = s.errIllegal) ∧
    ((∀ v, i ≠ .setExt v) → i ≠ .emit → t.errNopkt = s.errNopkt) ∧
    ((∀ p, i ≠ .load p) → t.pktValid = s.pktValid ∧ { t.pkt with ext := s.pkt.ext } = s.pkt) ∧
    (i = .emit ∨ i = .illegal → t.pkt = s.pkt) ∧
    (i = .emit → s.level = .transaction → t.busy = s.busy ∧ t.idx = s.idx ∧ t.acc = s.acc) ∧
    (i = .emit → s.level = .cycle → t.out = s.out)

/-- R94: at an edge that accepts a LOAD, a SET_EXT or an ILLEGAL the effect is complete, and the next edge can accept again. -/
def Obligations.ShortCommandsKeepReady : Prop :=
  ∀ s : State, s.hasReset = true → s.accepts s.portIn = true → s.portIn.cmdOp ≠ 0b11 →
    ∃ t, exec (decode s.portIn.word) { s with inputs := s.inputs.tail, edge := s.edge + 1 } = .next t ∧
      step s = .next t ∧ t.busy = false ∧ t.cmdReady false = true

/-! ### Errors -/

/-- R122: an error bit that is set stays set over every edge but a reset, which clears both; raising an error again leaves it 1. -/
def Obligations.ErrorBitsAreSticky : Prop :=
  (∀ s t : State, step s = .next t → s.portIn.rst = false →
    (s.errIllegal = true → t.errIllegal = true) ∧ (s.errNopkt = true → t.errNopkt = true)) ∧
  (∀ (i : Instr) (s t : State), exec i s = .next t →
    (s.errIllegal = true → t.errIllegal = true) ∧ (s.errNopkt = true → t.errNopkt = true)) ∧
  (∀ s t : State, step s = .next t → s.portIn.rst = true → t.errIllegal = false ∧ t.errNopkt = false)

/-- R123: an edge does the same with error bits set as without: from two states that differ in the error bits alone it leads to
two states that differ in the error bits alone. -/
def Obligations.ErrorsDoNotBlock : Prop :=
  ∀ (s t : State) (a b : Bool), step s = .next t →
    ∃ a' b', step { s with errIllegal := a, errNopkt := b } = .next { t with errIllegal := a', errNopkt := b' }

/-- R124: a command that newly sets an error bit changes nothing else. -/
def Obligations.ErrorsAreAllOrNothing : Prop :=
  ∀ (i : Instr) (s t : State), exec i s = .next t →
    (t.errIllegal ≠ s.errIllegal → t = { s with errIllegal := true }) ∧
    (t.errNopkt ≠ s.errNopkt → t = { s with errNopkt := true })

/-- R125: the reserved opcode raises IllegalOp with and without a Packet, SET_EXT and EMIT then check `pkt_valid`, LOAD raises
nothing, one edge raises at most one error, and reset is first. -/
def Obligations.ErrorPriority : Prop :=
  (∀ (w : CmdWord) (s : State), CmdWord.op w = 0b00 → exec (decode w) s = .next { s with errIllegal := true }) ∧
  (∀ (w : CmdWord) (s : State), CmdWord.op w = 0b10 ∨ CmdWord.op w = 0b11 → s.pktValid = false →
    exec (decode w) s = .next { s with errNopkt := true }) ∧
  (∀ (w : CmdWord) (s : State), CmdWord.op w = 0b01 →
    ∃ t, exec (decode w) s = .next t ∧ t.errIllegal = s.errIllegal ∧ t.errNopkt = s.errNopkt) ∧
  (∀ s t : State, step s = .next t → ¬(s.errIllegal = false ∧ t.errIllegal = true ∧ s.errNopkt = false ∧ t.errNopkt = true)) ∧
  (∀ (s : State) (p : PortIn), p.rst = true → s.edgeKind p = .reset)

/-! ### What the edges keep -/

/-- R24: over an edge, `pkt_valid` becomes 1 only by an accepted LOAD and becomes 0 only by reset; SET_EXT and EMIT without a
Packet raise NoPacket and have no other effect. -/
def Obligations.PacketValidWriters : Prop :=
  (∀ s t : State, step s = .next t →
    (s.pktValid = false → t.pktValid = true → s.accepts s.portIn = true ∧ s.portIn.cmdOp = 0b01) ∧
    (s.pktValid = true → t.pktValid = false → s.portIn.rst = true) ∧
    (s.hasReset = true → s.accepts s.portIn = true → s.portIn.cmdOp = 0b01 → t.pktValid = true)) ∧
  (∀ s : State, s.pktValid = false →
    (∀ v, exec (.setExt v) s = .next { s with errNopkt := true }) ∧ exec .emit s = .next { s with errNopkt := true })

/-- R22: over an edge the packet register changes only by reset, by an accepted LOAD, which writes every field, and by an
accepted SET_EXT, which writes the extended byte. -/
def Obligations.PacketRegisterWriters : Prop :=
  ∀ s t : State, step s = .next t →
    t.pkt = s.pkt ∨
    (s.portIn.rst = true ∧ t.pkt = ⟨0, 0, 0, 0, 0, 0, 0, 0, 0⟩) ∨
    (s.accepts s.portIn = true ∧ s.portIn.cmdOp = 0b01 ∧ t.pkt = Packet.ofPayload s.portIn.cmdPayload) ∨
    (s.accepts s.portIn = true ∧ s.portIn.cmdOp = 0b10 ∧ s.pktValid = true ∧
      t.pkt = { s.pkt with ext := s.portIn.cmdPayload.extractLsb' 0 8 })

/-- The history only grows between resets: nothing, the presented byte, or a whole frame is appended. No byte is dropped, and none
is sent that was not asked for. -/
def Obligations.HistoryOnlyGrows : Prop :=
  ∀ s t : State, step s = .next t → s.portIn.rst = false →
    t.out = s.out ∨
    (s.transfers s.portIn = true ∧ t.out = s.out ++ [s.frameByteAt]) ∨
    (s.accepts s.portIn = true ∧ s.portIn.cmdOp = 0b11 ∧ s.pktValid = true ∧ s.level = .transaction ∧
      t.out = s.out ++ frame s.pkt)

/-- The invariants hold after reset, with nothing in the output history. -/
def Obligations.GoodAfterReset : Prop :=
  ∀ s : State, s.AfterReset → s.Good

/-- R38, from every state that meets them and not only from reset: every edge keeps the four invariants of a state, and the Packet
does not change while a frame is in flight. -/
def Obligations.StepKeepsEmitterInvariant : Prop :=
  ∀ s t : State, s.Inv → step s = .next t →
    t.Inv ∧ (s.busy = true → s.portIn.rst = false → t.pkt = s.pkt)

/-- Every edge keeps the whole invariant: the output history is always whole frames followed by the transferred part of the frame in
flight (R57), and it is empty while there is no Packet (R24). -/
def Obligations.StepKeepsFramedHistory : Prop :=
  ∀ s t : State, s.Good → step s = .next t → t.Good

/-- R38's closing word, reachability: after any number of edges from reset, under any inputs and at either level, the invariants
hold. -/
def Obligations.ReachableStatesAreGood : Prop :=
  ∀ (s t : State) (k : Nat), s.AfterReset → run k s = .next t → t.Good

/-! ### The edges -/

/-- An edge that accepts a command runs the decoded word on the state with this edge's inputs used and the edge counted. -/
def Obligations.StepRunsAcceptedCommand : Prop :=
  ∀ s : State, s.hasReset = true → s.busy = false → s.portIn.rst = false → s.portIn.cmdValid = true →
    step s = exec (decode s.portIn.word) { s with inputs := s.inputs.tail, edge := s.edge + 1 }

/-- `withFetchWord` makes the very next step run the instruction of that table word, from every state. -/
def Obligations.WithFetchWordRunsIt : Prop :=
  ∀ (s : State) (nbits w : Nat) (i : Instr), decodeTableWord nbits w = some i →
    step (s.withFetchWord nbits w) =
      exec i { s with hasReset := true, busy := false, idx := 0, acc := 0, edge := s.edge + 1 }

/-- R109: the presented byte for each `idx` from 0 to 16. -/
def Obligations.PresentedByte : Prop :=
  ∀ s : State, s.idx.toNat ≤ 16 →
    (s.idx = 0 → s.frameByteAt = 0xFF) ∧
    (1 ≤ s.idx.toNat → s.idx.toNat ≤ 15 → s.frameByteAt = pktByte s.pkt s.idx.toNat) ∧
    (s.idx = 16 → s.frameByteAt = ~~~(s.acc % 255) &&& 0xFF) ∧
    (s.busy = true → (s.outLast false = true ↔ s.idx = 16))

/-- R110: the transfer edge. -/
def Obligations.TransferEdge : Prop :=
  ∀ s : State, s.hasReset = true → s.portIn.rst = false → s.busy = true → s.portIn.outReady = true →
    ∃ t, step s = .next t ∧ t.out = s.out ++ [s.frameByteAt] ∧
      (1 ≤ s.idx.toNat → s.idx.toNat ≤ 15 → t.acc.toNat = (s.acc.toNat + s.frameByteAt.toNat) % 256) ∧
      (¬(1 ≤ s.idx.toNat ∧ s.idx.toNat ≤ 16) → t.acc = s.acc) ∧
      (s.idx = 16 → t.busy = false ∧ t.idx = 0 ∧ t.acc = 0) ∧
      (s.idx ≠ 16 → t.busy = true ∧ t.idx = s.idx + 1) ∧
      t.pkt = s.pkt ∧ t.pktValid = s.pktValid ∧ t.errIllegal = s.errIllegal ∧ t.errNopkt = s.errNopkt

/-- R111: an edge at which the sink is not ready changes no state of the FFA, and the presented byte stays. -/
def Obligations.HoldEdge : Prop :=
  ∀ s : State, s.hasReset = true → s.portIn.rst = false → s.busy = true → s.portIn.outReady = false →
    ∃ t, step s = .next t ∧ t = { s with inputs := s.inputs.tail, edge := s.edge + 1 } ∧
      t.outValid false = true ∧ t.outData false = s.outData false ∧ t.outLast false = s.outLast false

/-- R112: an edge without reset, accept and transfer changes no state of the FFA. -/
def Obligations.IdleEdge : Prop :=
  ∀ s : State, s.hasReset = true → s.portIn.rst = false → s.accepts s.portIn = false → s.transfers s.portIn = false →
    step s = .next { s with inputs := s.inputs.tail, edge := s.edge + 1 }

/-- R146: while a frame is in flight, or with `cmd_valid = 0`, the command port is not sampled: any other command word there gives
the same edge. While busy, `cmd_valid` itself makes no difference either. The word present at the accept edge is the one run. -/
def Obligations.CommandPortSampledAtAcceptOnly : Prop :=
  ∀ (s : State) (p : PortIn) (rest : List PortIn) (valid : Bool) (op : BitVec 2) (pl : Payload),
    (s.busy = true →
      s.accepts p = false ∧
      step { s with inputs := { p with cmdValid := valid, cmdOp := op, cmdPayload := pl } :: rest } =
        step { s with inputs := p :: rest }) ∧
    (p.cmdValid = false →
      step { s with inputs := { p with cmdOp := op, cmdPayload := pl } :: rest } = step { s with inputs := p :: rest }) ∧
    (s.hasReset = true → s.accepts p = true →
      step { s with inputs := p :: rest } = exec (decode p.word) { s with inputs := rest, edge := s.edge + 1 })

/-! ### Runs of edges -/

/-- While fewer than 17 bytes of a frame have been transferred: after any edges without reset, of which `n` have the sink ready, the
first `n` bytes of the frame are in the history, `idx` is `n`, and the rest of the FFA is as it was, whatever the command port
offered. (R57, R110, R111, R146) -/
def Obligations.FrameInFlight : Prop :=
  ∀ (s : State) (ins rest : List PortIn), s.hasReset = true → s.busy = true → s.idx = 0 → s.acc = 0 →
    s.inputs = ins ++ rest → NoReset ins → readyEdges ins ≤ 16 →
    run ins.length s = .next { s with
      idx    := BitVec.ofNat 5 (readyEdges ins)
      acc    := sum8 (pktBytes s.pkt (readyEdges ins - 1))
      out    := s.out ++ (frame s.pkt).take (readyEdges ins)
      inputs := rest
      edge   := s.edge + ins.length }

/-- R115 and R9, the refinement: an EMIT accepted at the cycle level, and then any edges without reset up to the one that transfers
byte 16, leave exactly the state that the transaction level's one step leaves: the 17 bytes of `Frame(pkt)` in order, and an idle
emitter. -/
def Obligations.CycleLevelRefinesTransaction : Prop :=
  ∀ (s t : State) (accept last : PortIn) (ins rest : List PortIn),
    s.hasReset = true → s.Idle → s.pktValid = true → s.level = .cycle →
    s.inputs = accept :: (ins ++ last :: rest) →
    accept.rst = false → accept.cmdValid = true → accept.cmdOp = 0b11 →
    NoReset ins → readyEdges ins = 16 → last.rst = false → last.outReady = true →
    exec .emit { s with level := .transaction } = .next t →
    t.out = s.out ++ frame s.pkt ∧
    run (ins.length + 2) s = .next { t with level := .cycle, inputs := rest, edge := s.edge + (ins.length + 2) }

/-- R114: after an EMIT is accepted with a Packet at the cycle level, no command can be accepted for at least 17 further edges,
whatever sink and host do; with the sink ready throughout, the FFA is ready again right after them. -/
def Obligations.EmitTakesEighteenEdges : Prop :=
  ∀ (s : State) (accept : PortIn) (ins rest : List PortIn),
    s.hasReset = true → s.Idle → s.pktValid = true → s.level = .cycle →
    s.inputs = accept :: (ins ++ rest) →
    accept.rst = false → accept.cmdValid = true → accept.cmdOp = 0b11 → NoReset ins →
    (ins.length ≤ 16 → ∃ t, run (ins.length + 1) s = .next t ∧ t.busy = true ∧ t.cmdReady false = false) ∧
    (ins.length = 17 → readyEdges ins = 17 → ∃ t, run 18 s = .next t ∧ t.busy = false ∧ t.cmdReady false = true)

/-- R154: with a sink that is never ready the FFA holds for any number of edges: nothing of it changes, no error is recorded, no
command is accepted. -/
def Obligations.UnreadySinkHangs : Prop :=
  ∀ (s : State) (ins rest : List PortIn), s.hasReset = true → s.busy = true →
    s.inputs = ins ++ rest → NoReset ins → readyEdges ins = 0 →
    run ins.length s = .next { s with inputs := rest, edge := s.edge + ins.length }

/-- R153, the end of the run of a command sequence, which log entry 11 reads as a state. It is one state after one number of edges;
the observation there (history, status, Packet) stays over the edges that follow until a reset or another command; a LOAD, a SET_EXT
or an ILLEGAL as the only command ends its run at once; and an EMIT, at the cycle level with a Packet, ends it when byte 16 has been
transferred, with the frame in the history. -/
def Obligations.EndOfRun : Prop :=
  (∀ (cmds : List CmdWord) (s t t' : State) (k k' : Nat),
    RunEndsAt cmds s k t → RunEndsAt cmds s k' t' → k' = k ∧ t' = t) ∧
  (∀ (cmds : List CmdWord) (s t : State) (k : Nat) (ins rest : List PortIn),
    RunEndsAt cmds s k t → t.hasReset = true → t.inputs = ins ++ rest → NoReset ins → (∀ p ∈ ins, p.cmdValid = false) →
    ∃ u, run (k + ins.length) s = .next u ∧ u.observation = t.observation ∧ acceptedWords (k + ins.length) s = cmds) ∧
  (∀ s : State, s.hasReset = true → s.accepts s.portIn = true → s.portIn.cmdOp ≠ 0b11 →
    ∃ t, RunEndsAt [s.portIn.word] s 1 t) ∧
  (∀ (s : State) (accept last : PortIn) (ins rest : List PortIn),
    s.hasReset = true → s.Idle → s.pktValid = true → s.level = .cycle →
    s.inputs = accept :: (ins ++ last :: rest) →
    accept.rst = false → accept.cmdValid = true → accept.cmdOp = 0b11 →
    NoReset ins → readyEdges ins = 16 → last.rst = false → last.outReady = true →
    ∃ t, RunEndsAt [accept.word] s (ins.length + 2) t ∧ t.observation = (s.out ++ frame s.pkt, s.status, s.pkt))

/-- R131's independence, in the model's realisation of a system (log entries 9 and 10, DESIGN CHOICE): that a step of a system is an
edge of one FFA while the others stand still is the model's choice, and so is the stream of free values by place. Such an edge is
that FFA's own step and leaves every other FFA, and their number, as they were; and no two FFAs of a system share a stream. -/
def Obligations.InstancesAreIndependent : Prop :=
  (∀ (sys sys' : System) (k : Nat), sys.stepAt k = .next sys' →
    sys'.size = sys.size ∧ (∀ j, j ≠ k → sys'.ffa j = sys.ffa j) ∧
    (∀ s, sys.ffa k = some s → ∃ t, step s = .next t ∧ sys'.ffa k = some t)) ∧
  (∀ (sys : System) (j k : Nat) (s t : State),
    sys.ffa j = some s → sys.ffa k = some t → s.stream = t.stream → j = k)
end

