-- ==== Sys2Proof/Laws/Codec.lean ====
section
/-! SUPPORT. The command word's two parts, the opcode's bits, and the payload layout. -/

namespace Sys2Proof

@[simp] theorem opcode_ofBits_bits (o : Opcode) : Opcode.ofBits o.bits = o := by cases o <;> decide

theorem opcode_bits_ofBits : ∀ b : BitVec 2, (Opcode.ofBits b).bits = b := by decide

/-- The bits of a word, part by part (R74). -/
theorem getLsbD_ofParts (op : BitVec 2) (pl : Payload) (i : Nat) :
    (CmdWord.ofParts op pl).getLsbD i = if i < 120 then pl.getLsbD i else op.getLsbD (i - 120) :=
  BitVec.getLsbD_append

/-- A slice that lies in the upper part of an append. -/
theorem extractLsb'_append_high {n m w : Nat} (x : BitVec n) (y : BitVec m) {lo : Nat} (h : m ≤ lo) :
    (x ++ y).extractLsb' lo w = x.extractLsb' (lo - m) w := by
  apply BitVec.eq_of_getLsbD_eq
  intro k hk
  rw [BitVec.getLsbD_extractLsb', BitVec.getLsbD_extractLsb', BitVec.getLsbD_append, if_neg (by omega)]
  congr 2
  omega

/-- A slice that lies in the lower part of an append. -/
theorem extractLsb'_append_low {n m w : Nat} (x : BitVec n) (y : BitVec m) {lo : Nat} (h : lo + w ≤ m) :
    (x ++ y).extractLsb' lo w = y.extractLsb' lo w := by
  apply BitVec.eq_of_getLsbD_eq
  intro k hk
  rw [BitVec.getLsbD_extractLsb', BitVec.getLsbD_extractLsb', BitVec.getLsbD_append, if_pos (by omega)]

@[simp] theorem cmdWord_op_ofParts (op : BitVec 2) (pl : Payload) : CmdWord.op (CmdWord.ofParts op pl) = op := by
  apply BitVec.eq_of_getLsbD_eq
  intro i hi
  simp [CmdWord.op, getLsbD_ofParts, hi]

@[simp] theorem cmdWord_payload_ofParts (op : BitVec 2) (pl : Payload) :
    CmdWord.payload (CmdWord.ofParts op pl) = pl := by
  apply BitVec.eq_of_getLsbD_eq
  intro i hi
  simp [CmdWord.payload, getLsbD_ofParts, hi]

theorem cmdWord_ofParts_parts (w : CmdWord) : CmdWord.ofParts (CmdWord.op w) (CmdWord.payload w) = w := by
  apply BitVec.eq_of_getLsbD_eq
  intro i hi
  rw [getLsbD_ofParts]
  by_cases h : i < 120
  · simp [CmdWord.payload, h]
  · have h2 : i - 120 < 2 := by omega
    have h3 : 120 + (i - 120) = i := by omega
    simp [CmdWord.op, h, h2, h3]

/-- Two neighbouring slices make one. -/
theorem extractLsb'_append_neighbour {w n m : Nat} (x : BitVec w) {lo hi : Nat} (h : hi = lo + m) :
    x.extractLsb' hi n ++ x.extractLsb' lo m = x.extractLsb' lo (n + m) := by
  subst h
  apply BitVec.eq_of_getLsbD_eq
  intro k hk
  rw [BitVec.getLsbD_append]
  simp only [BitVec.getLsbD_extractLsb']
  split
  · simp [hk]
    omega
  · have : lo + m + (k - m) = lo + k := by omega
    rw [this]
    simp [hk]
    omega

/-- Spelling again the Packet a payload spells (R77). -/
@[simp] theorem packet_toPayload_ofPayload (pl : Payload) : (Packet.ofPayload pl).toPayload = pl := by
  simp only [Packet.toPayload, Packet.ofPayload]
  rw [extractLsb'_append_neighbour (lo := 88) (hi := 104) pl rfl, extractLsb'_append_neighbour (lo := 72) (hi := 88) pl rfl,
    extractLsb'_append_neighbour (lo := 56) (hi := 72) pl rfl, extractLsb'_append_neighbour (lo := 40) (hi := 56) pl rfl,
    extractLsb'_append_neighbour (lo := 24) (hi := 40) pl rfl, extractLsb'_append_neighbour (lo := 16) (hi := 24) pl rfl,
    extractLsb'_append_neighbour (lo := 8) (hi := 16) pl rfl]
  exact (extractLsb'_append_neighbour (lo := 0) (hi := 8) pl rfl).trans (by simp)

/-- Reading a Packet back from the payload that spells it (R77). -/
@[simp] theorem packet_ofPayload_toPayload (p : Packet) : Packet.ofPayload p.toPayload = p := by
  refine Packet.mk.injEq .. ▸ ⟨?_, ?_, ?_, ?_, ?_, ?_, ?_, ?_, ?_⟩
  · iterate 8 refine (extractLsb'_append_high _ _ (by decide)).trans ?_
    simp
  · iterate 7 refine (extractLsb'_append_high _ _ (by decide)).trans ?_
    exact (extractLsb'_append_low _ _ (by decide)).trans (by simp)
  · iterate 6 refine (extractLsb'_append_high _ _ (by decide)).trans ?_
    exact (extractLsb'_append_low _ _ (by decide)).trans (by simp)
  · iterate 5 refine (extractLsb'_append_high _ _ (by decide)).trans ?_
    exact (extractLsb'_append_low _ _ (by decide)).trans (by simp)
  · iterate 4 refine (extractLsb'_append_high _ _ (by decide)).trans ?_
    exact (extractLsb'_append_low _ _ (by decide)).trans (by simp)
  · iterate 3 refine (extractLsb'_append_high _ _ (by decide)).trans ?_
    exact (extractLsb'_append_low _ _ (by decide)).trans (by simp)
  · iterate 2 refine (extractLsb'_append_high _ _ (by decide)).trans ?_
    exact (extractLsb'_append_low _ _ (by decide)).trans (by simp)
  · refine (extractLsb'_append_high _ _ (by decide)).trans ?_
    exact (extractLsb'_append_low _ _ (by decide)).trans (by simp)
  · exact (extractLsb'_append_low _ _ (by decide)).trans (by simp)

end Sys2Proof
end

