-- ==== Sys2Proof/Laws/Frame.lean ====
section
/-! SUPPORT. What serialization computes: lengths, sums, and the byte at each offset. -/

namespace Sys2Proof.Machine

@[simp] theorem pktBytes_length (p : Packet) (n : Nat) : (pktBytes p n).length = n := by simp [pktBytes]

@[simp] theorem pktBytes_zero (p : Packet) : pktBytes p 0 = [] := rfl

theorem pktBytes_succ (p : Packet) (n : Nat) : pktBytes p (n + 1) = pktBytes p n ++ [pktByte p (n + 1)] := by
  simp [pktBytes, List.range'_concat, Nat.add_comm]

theorem pktBytes_take (p : Packet) {m n : Nat} (h : m ≤ n) : (pktBytes p n).take m = pktBytes p m := by
  induction n with
  | zero => simp [Nat.le_zero.1 h]
  | succ n ih =>
    rcases Nat.lt_or_ge n m with hm | hm
    · rw [Nat.le_antisymm h hm, List.take_of_length_le (by simp)]
    · rw [pktBytes_succ, List.take_append_of_le_length (by simpa using hm), ih hm]

@[simp] theorem sum8_nil : sum8 [] = 0 := rfl

@[simp] theorem sum8_concat (bs : List Byte) (b : Byte) : sum8 (bs ++ [b]) = sum8 bs + b := by simp [sum8]

/-- The accumulator's sum is the exact sum modulo 256. -/
theorem sum8_toNat (bs : List Byte) : (sum8 bs).toNat = (bs.map BitVec.toNat).sum % 256 := by
  induction bs using List.reverseRecOn with
  | nil => rfl
  | append_singleton bs b ih =>
    have hb := b.isLt
    simp only [sum8_concat, BitVec.toNat_add, ih, List.map_append, List.map_cons, List.map_nil, List.sum_append,
      List.sum_cons, List.sum_nil, Nat.add_zero]
    omega

/-- Reduction and complement on numbers. -/
theorem complementMod_toNat (s : Byte) : (complementMod s).toNat = 255 - s.toNat % 255 := by
  have h : s.toNat % 255 < 255 := Nat.mod_lt _ (by decide)
  simp [complementMod, Config.ckMod, BitVec.toNat_not]

@[simp] theorem frame_length (p : Packet) : (frame p).length = 17 := by simp [frame]

/-- A frame's first bytes: the header and then payload bytes. -/
theorem frame_take_succ (p : Packet) {n : Nat} (h : n ≤ 15) :
    (frame p).take (n + 1) = Config.header :: pktBytes p n := by
  have : n ≤ (pktBytes p 15).length := by simpa using h
  simp [frame, List.take_append_of_le_length this, pktBytes_take p h]

/-- The three forms of the presented byte (R109). -/
theorem frameByteAt_header {s : State} (h : s.idx.toNat = 0) : s.frameByteAt = Config.header := by
  have : s.idx = 0 := by apply BitVec.eq_of_toNat_eq; simpa using h
  simp [State.frameByteAt, this]

theorem atLast_iff (s : State) : s.atLast = true ↔ s.idx.toNat = 16 := by
  simp [State.atLast, Config.frameLen]

theorem frameByteAt_last {s : State} (h : s.idx.toNat = 16) : s.frameByteAt = complementMod s.acc := by
  have h0 : s.idx ≠ 0 := by intro e; simp [e] at h
  rw [State.frameByteAt, if_neg h0, if_pos ((atLast_iff s).2 h)]

theorem frameByteAt_payload {s : State} (h1 : 1 ≤ s.idx.toNat) (h2 : s.idx.toNat ≤ 15) :
    s.frameByteAt = pktByte s.pkt s.idx.toNat := by
  have h0 : s.idx ≠ 0 := by intro e; simp [e] at h1
  have hl : s.atLast = false := by
    rw [Bool.eq_false_iff, ne_eq, atLast_iff]; omega
  rw [State.frameByteAt, if_neg h0, if_neg (by simp [hl])]

/-- `idx + 1` does not wrap below 31. -/
theorem idx_succ {i : BitVec 5} (h : i.toNat ≤ 15) : (i + 1).toNat = i.toNat + 1 := by
  rw [BitVec.toNat_add, show BitVec.toNat (1 : BitVec 5) = 1 from rfl]
  omega

/-- The byte a frame has at offset `n`, appended to the bytes before it. -/
theorem frame_take_next {s : State} (hi : s.idx.toNat ≤ 15) :
    (frame s.pkt).take (s.idx.toNat + 1) = (frame s.pkt).take s.idx.toNat ++ [s.frameByteAt] := by
  rw [frame_take_succ _ hi]
  rcases Nat.eq_zero_or_pos s.idx.toNat with h | h
  · simp [h, frameByteAt_header h]
  · obtain ⟨n, hn⟩ : ∃ n, s.idx.toNat = n + 1 := ⟨s.idx.toNat - 1, by omega⟩
    rw [frameByteAt_payload h hi, hn, frame_take_succ _ (by omega), pktBytes_succ]; rfl

/-- At offset 16, with the accumulator holding the payload sum, the presented byte completes the frame (R115). -/
theorem frame_take_last {s : State} (h : s.idx.toNat = 16) (hacc : s.acc = sum8 (pktBytes s.pkt 15)) :
    frame s.pkt = (frame s.pkt).take 16 ++ [s.frameByteAt] := by
  rw [frame_take_succ _ (le_refl 15), frameByteAt_last h, hacc]; rfl

end Sys2Proof.Machine
end

