-- ==== Sys2Proof/Laws/PerInstr.lean ====
section
/-! SUPPORT. The statements made for every instruction. -/

/-- The word an instruction is written as carries the opcode of its row of the opcode table (R76, R83), and its payload is the
one the assembler writes. -/
def Sys2Proof.Laws.WrittenWord.Statement (i : Sys2Proof.Instr) : Prop :=
  Sys2Proof.Opcode.ofBits (Sys2Proof.CmdWord.op (Sys2Proof.encode i)) = i.opcode ∧
  Sys2Proof.CmdWord.payload (Sys2Proof.encode i) = i.payload

namespace Sys2Proof.Laws.WrittenWord

theorem illegal : Statement .illegal := by simp [Statement, encode]

theorem load (p : Packet) : Statement (.load p) := by simp [Statement, encode]

theorem setExt (v8 : Byte) : Statement (.setExt v8) := by simp [Statement, encode]

theorem emit : Statement .emit := by simp [Statement, encode]

end Sys2Proof.Laws.WrittenWord
end

