-- ==== Sys2Proof/Laws/Run.lean ====
section
/-! SUPPORT. Running edge by edge, and the edge lists of the claims about runs. -/

namespace Sys2Proof.Machine

@[simp] theorem run_zero (s : State) : run 0 s = .next s := rfl

theorem run_succ {s t : State} (k : Nat) (h : step s = .next t) : run (k + 1) s = run k t := by
  have hs : Host.Core.step core s = .next t := h
  simp only [run, Host.Core.run, hs]
  rfl

/-- A run in two parts. -/
theorem run_add {s t : State} (j k : Nat) (h : run j s = .next t) : run (j + k) s = run k t := by
  induction j generalizing s with
  | zero =>
    simp only [run_zero, Host.Outcome.next.injEq] at h
    rw [Nat.zero_add, h]
  | succ j ih =>
    rw [Nat.succ_add]
    cases hs : step s with
    | next s' =>
      rw [run_succ _ hs] at h ⊢
      exact ih h
    | fault r =>
      have hc : Host.Core.step core s = .fault r := hs
      simp [run, Host.Core.run, hc] at h
    | refused r =>
      have hc : Host.Core.step core s = .refused r := hs
      simp [run, Host.Core.run, hc] at h

@[simp] theorem acceptedWords_zero (s : State) : acceptedWords 0 s = [] := rfl

theorem acceptedWords_succ {s t : State} (k : Nat) (h : step s = .next t) :
    acceptedWords (k + 1) s = s.acceptedWord.toList ++ acceptedWords k t := by
  simp [acceptedWords, h]

/-- The commands accepted by a run in two parts. -/
theorem acceptedWords_add {s t : State} (j k : Nat) (h : run j s = .next t) :
    acceptedWords (j + k) s = acceptedWords j s ++ acceptedWords k t := by
  induction j generalizing s with
  | zero =>
    simp only [run_zero, Host.Outcome.next.injEq] at h
    simp [h]
  | succ j ih =>
    rw [Nat.succ_add]
    cases hs : step s with
    | next u =>
      rw [run_succ _ hs] at h
      rw [acceptedWords_succ _ hs, acceptedWords_succ _ hs, ih h, List.append_assoc]
    | fault r =>
      have hc : Host.Core.step core s = .fault r := hs
      simp [run, Host.Core.run, hc] at h
    | refused r =>
      have hc : Host.Core.step core s = .refused r := hs
      simp [run, Host.Core.run, hc] at h

/-- When a command is accepted: after a reset, offered, with no frame in flight and no reset (R34, R156). -/
theorem acceptedWord_eq_some {s : State} {w : CmdWord} :
    s.acceptedWord = some w ↔
      s.hasReset = true ∧ s.busy = false ∧ s.portIn.rst = false ∧ s.portIn.cmdValid = true ∧ w = s.portIn.word := by
  cases hr : s.portIn.rst <;> cases hh : s.hasReset <;> cases hb : s.busy <;> cases hc : s.portIn.cmdValid <;>
    cases ho : s.portIn.outReady <;>
    simp [State.acceptedWord, State.edgeKind, State.accepts, State.transfers, State.cmdReady, State.outValid, hr, hh, hb, hc,
      ho, eq_comm]

/-- No command is accepted while a frame is in flight (R146). -/
theorem acceptedWord_busy {s : State} (h : s.busy = true) : s.acceptedWord = none := by
  cases e : s.acceptedWord with
  | none => rfl
  | some w => simpa [h] using (acceptedWord_eq_some.1 e).2.1

@[simp] theorem readyEdges_nil : readyEdges [] = 0 := rfl

theorem readyEdges_cons (p : PortIn) (ps : List PortIn) :
    readyEdges (p :: ps) = readyEdges ps + (if p.outReady then 1 else 0) := by
  simp [readyEdges, List.countP_cons]

theorem noReset_cons {p : PortIn} {ps : List PortIn} : NoReset (p :: ps) ↔ p.rst = false ∧ NoReset ps := by
  simp [NoReset]

end Sys2Proof.Machine
end

