-- ==== Sys2Proof/Laws/State.lean ====
section
/-! SUPPORT. One lemma per field per update of the state, each true by rfl, so that no proof unfolds an update. -/

namespace Sys2Proof.Machine

@[simp] theorem loadPacket_pkt (s : State) (p : Packet) : (s.loadPacket p).pkt = p := rfl
@[simp] theorem loadPacket_pktValid (s : State) (p : Packet) : (s.loadPacket p).pktValid = true := rfl
@[simp] theorem loadPacket_busy (s : State) (p : Packet) : (s.loadPacket p).busy = s.busy := rfl
@[simp] theorem loadPacket_idx (s : State) (p : Packet) : (s.loadPacket p).idx = s.idx := rfl
@[simp] theorem loadPacket_acc (s : State) (p : Packet) : (s.loadPacket p).acc = s.acc := rfl
@[simp] theorem loadPacket_errIllegal (s : State) (p : Packet) : (s.loadPacket p).errIllegal = s.errIllegal := rfl
@[simp] theorem loadPacket_errNopkt (s : State) (p : Packet) : (s.loadPacket p).errNopkt = s.errNopkt := rfl
@[simp] theorem loadPacket_out (s : State) (p : Packet) : (s.loadPacket p).out = s.out := rfl
@[simp] theorem loadPacket_hasReset (s : State) (p : Packet) : (s.loadPacket p).hasReset = s.hasReset := rfl
@[simp] theorem loadPacket_level (s : State) (p : Packet) : (s.loadPacket p).level = s.level := rfl
@[simp] theorem loadPacket_inputs (s : State) (p : Packet) : (s.loadPacket p).inputs = s.inputs := rfl
@[simp] theorem loadPacket_edge (s : State) (p : Packet) : (s.loadPacket p).edge = s.edge := rfl
@[simp] theorem loadPacket_stream (s : State) (p : Packet) : (s.loadPacket p).stream = s.stream := rfl

@[simp] theorem overrideExt_pkt (s : State) (v : Byte) : (s.overrideExt v).pkt = { s.pkt with ext := v } := rfl
@[simp] theorem overrideExt_pktValid (s : State) (v : Byte) : (s.overrideExt v).pktValid = s.pktValid := rfl
@[simp] theorem overrideExt_busy (s : State) (v : Byte) : (s.overrideExt v).busy = s.busy := rfl
@[simp] theorem overrideExt_idx (s : State) (v : Byte) : (s.overrideExt v).idx = s.idx := rfl
@[simp] theorem overrideExt_acc (s : State) (v : Byte) : (s.overrideExt v).acc = s.acc := rfl
@[simp] theorem overrideExt_errIllegal (s : State) (v : Byte) : (s.overrideExt v).errIllegal = s.errIllegal := rfl
@[simp] theorem overrideExt_errNopkt (s : State) (v : Byte) : (s.overrideExt v).errNopkt = s.errNopkt := rfl
@[simp] theorem overrideExt_out (s : State) (v : Byte) : (s.overrideExt v).out = s.out := rfl
@[simp] theorem overrideExt_hasReset (s : State) (v : Byte) : (s.overrideExt v).hasReset = s.hasReset := rfl
@[simp] theorem overrideExt_level (s : State) (v : Byte) : (s.overrideExt v).level = s.level := rfl
@[simp] theorem overrideExt_inputs (s : State) (v : Byte) : (s.overrideExt v).inputs = s.inputs := rfl
@[simp] theorem overrideExt_edge (s : State) (v : Byte) : (s.overrideExt v).edge = s.edge := rfl
@[simp] theorem overrideExt_stream (s : State) (v : Byte) : (s.overrideExt v).stream = s.stream := rfl

@[simp] theorem emitByte_pkt (s : State) (b : Byte) : (s.emitByte b).pkt = s.pkt := rfl
@[simp] theorem emitByte_pktValid (s : State) (b : Byte) : (s.emitByte b).pktValid = s.pktValid := rfl
@[simp] theorem emitByte_busy (s : State) (b : Byte) : (s.emitByte b).busy = s.busy := rfl
@[simp] theorem emitByte_idx (s : State) (b : Byte) : (s.emitByte b).idx = s.idx := rfl
@[simp] theorem emitByte_acc (s : State) (b : Byte) : (s.emitByte b).acc = s.acc := rfl
@[simp] theorem emitByte_errIllegal (s : State) (b : Byte) : (s.emitByte b).errIllegal = s.errIllegal := rfl
@[simp] theorem emitByte_errNopkt (s : State) (b : Byte) : (s.emitByte b).errNopkt = s.errNopkt := rfl
@[simp] theorem emitByte_out (s : State) (b : Byte) : (s.emitByte b).out = s.out ++ [b] := rfl
@[simp] theorem emitByte_hasReset (s : State) (b : Byte) : (s.emitByte b).hasReset = s.hasReset := rfl
@[simp] theorem emitByte_level (s : State) (b : Byte) : (s.emitByte b).level = s.level := rfl
@[simp] theorem emitByte_inputs (s : State) (b : Byte) : (s.emitByte b).inputs = s.inputs := rfl
@[simp] theorem emitByte_edge (s : State) (b : Byte) : (s.emitByte b).edge = s.edge := rfl
@[simp] theorem emitByte_stream (s : State) (b : Byte) : (s.emitByte b).stream = s.stream := rfl

@[simp] theorem startFrame_pkt (s : State) : s.startFrame.pkt = s.pkt := rfl
@[simp] theorem startFrame_pktValid (s : State) : s.startFrame.pktValid = s.pktValid := rfl
@[simp] theorem startFrame_busy (s : State) : s.startFrame.busy = true := rfl
@[simp] theorem startFrame_idx (s : State) : s.startFrame.idx = 0 := rfl
@[simp] theorem startFrame_acc (s : State) : s.startFrame.acc = 0 := rfl
@[simp] theorem startFrame_errIllegal (s : State) : s.startFrame.errIllegal = s.errIllegal := rfl
@[simp] theorem startFrame_errNopkt (s : State) : s.startFrame.errNopkt = s.errNopkt := rfl
@[simp] theorem startFrame_out (s : State) : s.startFrame.out = s.out := rfl
@[simp] theorem startFrame_hasReset (s : State) : s.startFrame.hasReset = s.hasReset := rfl
@[simp] theorem startFrame_level (s : State) : s.startFrame.level = s.level := rfl
@[simp] theorem startFrame_inputs (s : State) : s.startFrame.inputs = s.inputs := rfl
@[simp] theorem startFrame_edge (s : State) : s.startFrame.edge = s.edge := rfl
@[simp] theorem startFrame_stream (s : State) : s.startFrame.stream = s.stream := rfl

@[simp] theorem resetEdge_pkt (s : State) : s.resetEdge.pkt = ⟨0, 0, 0, 0, 0, 0, 0, 0, 0⟩ := rfl
@[simp] theorem resetEdge_pktValid (s : State) : s.resetEdge.pktValid = false := rfl
@[simp] theorem resetEdge_busy (s : State) : s.resetEdge.busy = false := rfl
@[simp] theorem resetEdge_idx (s : State) : s.resetEdge.idx = 0 := rfl
@[simp] theorem resetEdge_acc (s : State) : s.resetEdge.acc = 0 := rfl
@[simp] theorem resetEdge_errIllegal (s : State) : s.resetEdge.errIllegal = false := rfl
@[simp] theorem resetEdge_errNopkt (s : State) : s.resetEdge.errNopkt = false := rfl
@[simp] theorem resetEdge_out (s : State) : s.resetEdge.out = [] := rfl
@[simp] theorem resetEdge_hasReset (s : State) : s.resetEdge.hasReset = true := rfl
@[simp] theorem resetEdge_level (s : State) : s.resetEdge.level = s.level := rfl
@[simp] theorem resetEdge_inputs (s : State) : s.resetEdge.inputs = s.inputs := rfl
@[simp] theorem resetEdge_edge (s : State) : s.resetEdge.edge = s.edge := rfl
@[simp] theorem resetEdge_stream (s : State) : s.resetEdge.stream = s.stream := rfl

@[simp] theorem advance_pkt (s : State) : s.advance.pkt = s.pkt := rfl
@[simp] theorem advance_pktValid (s : State) : s.advance.pktValid = s.pktValid := rfl
@[simp] theorem advance_busy (s : State) : s.advance.busy = s.busy := rfl
@[simp] theorem advance_idx (s : State) : s.advance.idx = s.idx := rfl
@[simp] theorem advance_acc (s : State) : s.advance.acc = s.acc := rfl
@[simp] theorem advance_errIllegal (s : State) : s.advance.errIllegal = s.errIllegal := rfl
@[simp] theorem advance_errNopkt (s : State) : s.advance.errNopkt = s.errNopkt := rfl
@[simp] theorem advance_out (s : State) : s.advance.out = s.out := rfl
@[simp] theorem advance_hasReset (s : State) : s.advance.hasReset = s.hasReset := rfl
@[simp] theorem advance_level (s : State) : s.advance.level = s.level := rfl
@[simp] theorem advance_inputs (s : State) : s.advance.inputs = s.inputs.tail := rfl
@[simp] theorem advance_edge (s : State) : s.advance.edge = s.edge + 1 := rfl
@[simp] theorem advance_stream (s : State) : s.advance.stream = s.stream := rfl

@[simp] theorem raise_pkt (s : State) (c : Cause) : (s.raise c).pkt = s.pkt := by cases c <;> rfl
@[simp] theorem raise_pktValid (s : State) (c : Cause) : (s.raise c).pktValid = s.pktValid := by cases c <;> rfl
@[simp] theorem raise_busy (s : State) (c : Cause) : (s.raise c).busy = s.busy := by cases c <;> rfl
@[simp] theorem raise_idx (s : State) (c : Cause) : (s.raise c).idx = s.idx := by cases c <;> rfl
@[simp] theorem raise_acc (s : State) (c : Cause) : (s.raise c).acc = s.acc := by cases c <;> rfl
@[simp] theorem raise_errIllegal (s : State) (c : Cause) : (s.raise c).errIllegal = (s.errIllegal || decide (c = .illegalOp)) := by cases c <;> simp [State.raise]
@[simp] theorem raise_errNopkt (s : State) (c : Cause) : (s.raise c).errNopkt = (s.errNopkt || decide (c = .noPacket)) := by cases c <;> simp [State.raise]
@[simp] theorem raise_out (s : State) (c : Cause) : (s.raise c).out = s.out := by cases c <;> rfl
@[simp] theorem raise_hasReset (s : State) (c : Cause) : (s.raise c).hasReset = s.hasReset := by cases c <;> rfl
@[simp] theorem raise_level (s : State) (c : Cause) : (s.raise c).level = s.level := by cases c <;> rfl
@[simp] theorem raise_inputs (s : State) (c : Cause) : (s.raise c).inputs = s.inputs := by cases c <;> rfl
@[simp] theorem raise_edge (s : State) (c : Cause) : (s.raise c).edge = s.edge := by cases c <;> rfl
@[simp] theorem raise_stream (s : State) (c : Cause) : (s.raise c).stream = s.stream := by cases c <;> rfl

/-- Emitting a list of bytes is one append. -/
theorem emitBytes_eq (s : State) (bs : List Byte) : s.emitBytes bs = { s with out := s.out ++ bs } := by
  induction bs generalizing s with
  | nil => simp [State.emitBytes]
  | cons b bs ih =>
    have h := ih (s.emitByte b)
    simpa [State.emitBytes, State.emitByte] using h

@[simp] theorem emitBytes_pkt (s : State) (bs : List Byte) : (s.emitBytes bs).pkt = s.pkt := by rw [emitBytes_eq]
@[simp] theorem emitBytes_pktValid (s : State) (bs : List Byte) : (s.emitBytes bs).pktValid = s.pktValid := by rw [emitBytes_eq]
@[simp] theorem emitBytes_busy (s : State) (bs : List Byte) : (s.emitBytes bs).busy = s.busy := by rw [emitBytes_eq]
@[simp] theorem emitBytes_idx (s : State) (bs : List Byte) : (s.emitBytes bs).idx = s.idx := by rw [emitBytes_eq]
@[simp] theorem emitBytes_acc (s : State) (bs : List Byte) : (s.emitBytes bs).acc = s.acc := by rw [emitBytes_eq]
@[simp] theorem emitBytes_errIllegal (s : State) (bs : List Byte) : (s.emitBytes bs).errIllegal = s.errIllegal := by rw [emitBytes_eq]
@[simp] theorem emitBytes_errNopkt (s : State) (bs : List Byte) : (s.emitBytes bs).errNopkt = s.errNopkt := by rw [emitBytes_eq]
@[simp] theorem emitBytes_out (s : State) (bs : List Byte) : (s.emitBytes bs).out = s.out ++ bs := by rw [emitBytes_eq]
@[simp] theorem emitBytes_hasReset (s : State) (bs : List Byte) : (s.emitBytes bs).hasReset = s.hasReset := by rw [emitBytes_eq]
@[simp] theorem emitBytes_level (s : State) (bs : List Byte) : (s.emitBytes bs).level = s.level := by rw [emitBytes_eq]
@[simp] theorem emitBytes_inputs (s : State) (bs : List Byte) : (s.emitBytes bs).inputs = s.inputs := by rw [emitBytes_eq]
@[simp] theorem emitBytes_edge (s : State) (bs : List Byte) : (s.emitBytes bs).edge = s.edge := by rw [emitBytes_eq]
@[simp] theorem emitBytes_stream (s : State) (bs : List Byte) : (s.emitBytes bs).stream = s.stream := by rw [emitBytes_eq]

/-- The inputs of the coming edge are the first listed ones. -/
@[simp] theorem portIn_of_inputs {s : State} {p : PortIn} {ps : List PortIn} (h : s.inputs = p :: ps) : s.portIn = p := by
  simp [State.portIn, h]

end Sys2Proof.Machine
end

