-- ==== Sys2Proof/Laws/Step.lean ====
section
/-! SUPPORT. What a command and an edge can do, said once: the inversion lemmas of `exec`, `transferByte` and `step`. -/

namespace Sys2Proof.Machine

/-- Everything a command can do: raise one error, write the packet register, emit a frame, or start one. -/
theorem exec_cases {i : Instr} {s t : State} (h : exec i s = .next t) :
    (i = .illegal ∧ t = s.raise .illegalOp) ∨
    (∃ p, i = .load p ∧ t = s.loadPacket p) ∨
    (∃ v, i = .setExt v ∧ s.pktValid = true ∧ t = s.overrideExt v) ∨
    (i = .emit ∧ s.pktValid = true ∧ s.level = .transaction ∧ t = s.emitBytes (frame s.pkt)) ∨
    (i = .emit ∧ s.pktValid = true ∧ s.level = .cycle ∧ t = s.startFrame) ∨
    ((i = .emit ∨ ∃ v, i = .setExt v) ∧ s.pktValid = false ∧ t = s.raise .noPacket) := by
  cases i with
  | illegal =>
    simp only [exec, execIllegal, Host.Outcome.next.injEq] at h
    exact .inl ⟨rfl, h.symm⟩
  | load p =>
    simp only [exec, execLoad, Host.Outcome.next.injEq] at h
    exact .inr (.inl ⟨p, rfl, h.symm⟩)
  | setExt v =>
    cases hv : s.pktValid <;> simp [exec, execSetExt, hv] at h <;> simp [h]
  | emit =>
    cases hv : s.pktValid <;> cases hl : s.level <;> simp [exec, execEmit, hv, hl] at h <;> simp [h]

/-- A command always answers a next state: no command faults and none is refused. -/
theorem exec_answers (i : Instr) (s : State) : ∃ t, exec i s = .next t := by
  cases i with
  | illegal => exact ⟨_, rfl⟩
  | load p => exact ⟨_, rfl⟩
  | setExt v => cases hv : s.pktValid <;> simp [exec, execSetExt, hv]
  | emit => cases hv : s.pktValid <;> cases hl : s.level <;> simp [exec, execEmit, hv, hl]

/-- A command leaves the model's own fields alone. -/
theorem exec_outside {i : Instr} {s t : State} (h : exec i s = .next t) :
    t.hasReset = s.hasReset ∧ t.level = s.level ∧ t.inputs = s.inputs ∧ t.edge = s.edge ∧
    t.stream = s.stream := by
  rcases exec_cases h with ⟨-, rfl⟩ | ⟨p, -, rfl⟩ | ⟨v, -, -, rfl⟩ | ⟨-, -, -, rfl⟩ | ⟨-, -, -, rfl⟩ | ⟨-, -, rfl⟩ <;> simp

/-- The transfer of a byte that is neither payload nor checksum (the header): no sum. -/
theorem transferByte_uncounted {s : State} (h : ¬(1 ≤ s.idx.toNat ∧ s.idx.toNat ≤ 16)) :
    s.transferByte = { s with out := s.out ++ [s.frameByteAt], idx := s.idx + 1 } := by
  have hl : s.atLast = false := by rw [Bool.eq_false_iff, ne_eq, atLast_iff]; omega
  have hp : ¬(1 ≤ s.idx.toNat ∧ s.idx.toNat ≤ 15) := by omega
  simp [State.transferByte, hl, hp, State.emitByte]

/-- The transfer of a payload byte: it is added to the accumulator. -/
theorem transferByte_payload {s : State} (h1 : 1 ≤ s.idx.toNat) (h2 : s.idx.toNat ≤ 15) :
    s.transferByte =
      { s with out := s.out ++ [s.frameByteAt], acc := s.acc + s.frameByteAt, idx := s.idx + 1 } := by
  have hl : s.atLast = false := by rw [Bool.eq_false_iff, ne_eq, atLast_iff]; omega
  simp [State.transferByte, hl, h1, h2, State.emitByte]

/-- The transfer of the checksum: the frame ends. -/
theorem transferByte_last {s : State} (h : s.idx.toNat = 16) :
    s.transferByte = { s with out := s.out ++ [s.frameByteAt], busy := false, idx := 0, acc := 0 } := by
  simp [State.transferByte, (atLast_iff s).2 h, State.emitByte]

/-- A transfer touches the emitter and the history, nothing else. -/
theorem transferByte_outside (s : State) :
    s.transferByte.pkt = s.pkt ∧ s.transferByte.pktValid = s.pktValid ∧ s.transferByte.errIllegal = s.errIllegal ∧
    s.transferByte.errNopkt = s.errNopkt ∧ s.transferByte.out = s.out ++ [s.frameByteAt] ∧
    s.transferByte.hasReset = s.hasReset ∧ s.transferByte.level = s.level ∧ s.transferByte.inputs = s.inputs ∧
    s.transferByte.edge = s.edge ∧ s.transferByte.stream = s.stream := by
  unfold State.transferByte
  dsimp only
  split <;> try split
  all_goals simp

/-- Everything an edge can do when it answers a next state (R113). -/
theorem step_cases {s t : State} (h : step s = .next t) :
    (s.portIn.rst = true ∧ t = s.advance.resetEdge) ∨
    (s.portIn.rst = false ∧ s.hasReset = true ∧ s.busy = false ∧ s.portIn.cmdValid = true ∧
      exec (decode s.portIn.word) s.advance = .next t) ∨
    (s.portIn.rst = false ∧ s.hasReset = true ∧ s.busy = true ∧ s.portIn.outReady = true ∧
      t = s.advance.transferByte) ∨
    (s.portIn.rst = false ∧ s.hasReset = true ∧ s.busy = true ∧ s.portIn.outReady = false ∧ t = s.advance) ∨
    (s.portIn.rst = false ∧ s.hasReset = true ∧ s.busy = false ∧ s.portIn.cmdValid = false ∧ t = s.advance) := by
  revert h
  cases hr : s.portIn.rst <;> cases hh : s.hasReset <;> cases hb : s.busy <;> cases hc : s.portIn.cmdValid <;>
    cases ho : s.portIn.outReady <;>
    simp [step, clockEdge, State.edgeKind, State.accepts, State.transfers, State.cmdReady, State.outValid, hr, hh, hb, hc,
      ho, eq_comm]

/-- An edge draws its free values from the same stream as the edge before it. -/
theorem step_stream {s t : State} (h : step s = .next t) : t.stream = s.stream := by
  rcases step_cases h with ⟨-, rfl⟩ | ⟨-, -, -, -, he⟩ | ⟨-, -, -, -, rfl⟩ | ⟨-, -, -, -, rfl⟩ | ⟨-, -, -, -, rfl⟩
  · simp
  · simpa using (exec_outside he).2.2.2.2
  · simp [(transferByte_outside s.advance).2.2.2.2.2.2.2.2.2]
  · simp
  · simp

/-- An edge is refused only before the first reset (R141), and no edge faults. -/
theorem step_answers {s : State} (h : s.hasReset = true ∨ s.portIn.rst = true) : ∃ t, step s = .next t := by
  obtain ⟨u, hu⟩ := exec_answers (decode s.portIn.word) s.advance
  revert h
  cases hr : s.portIn.rst <;> cases hh : s.hasReset <;> cases hb : s.busy <;> cases hc : s.portIn.cmdValid <;>
    cases ho : s.portIn.outReady <;>
    simp [step, clockEdge, State.edgeKind, State.accepts, State.transfers, State.cmdReady, State.outValid, hr, hh, hb, hc,
      ho, hu]


end Sys2Proof.Machine
end

