-- ==== Sys2Proof/Tests/Slice0.lean ====
section
/-! SUPPORT. Tests of the model against 95_test_vectors and the encodings of 30_encoding, and a witness for every statement that
has hypotheses: a concrete state and operands that meet all of them. -/

namespace Sys2Proof.Tests

open Sys2Proof Sys2Proof.Machine

/-- The next state an outcome carries. -/
def after (o : Host.Outcome State Fault Refusal) : Option State :=
  match o with
  | .next s => some s
  | _       => none

/-- Source scenario 2's Packet (95 §1.2). -/
def scenario2 : Packet := ⟨300, 0, 0, 0, 0, 0, 1, 0, 17⟩

/-- The Packet whose payload bytes are 1 to 15 (95, "counting bytes"). -/
def counting : Packet := ⟨0x0102, 0x0304, 0x0506, 0x0708, 0x090A, 0x0B0C, 0x0D, 0x0E, 0x0F⟩

/-- An FFA after reset with a Packet loaded. -/
def loadedWith (p : Packet) : State := { State.reset with pkt := p, pktValid := true }

/-- An edge with no reset and no command; the sink as given. -/
def quiet (ready : Bool) : PortIn := ⟨false, false, 0, 0, ready⟩

/-- An edge with `rst = 1`. -/
def resetting : PortIn := ⟨true, true, 0b01, 0, true⟩

/-- An FFA with the frame of `counting` in flight at offset `i`. -/
def inFlight (i : Nat) : State :=
  { loadedWith counting with
    busy := true, idx := BitVec.ofNat 5 i, acc := sum8 (pktBytes counting (i - 1)), out := (frame counting).take i }

/-! ### Decoding and encoding: words written out from R74, R76, R77 -/

/-- L-1: opcode 01, then 012C, five zero fields, 01, 00, 11. -/
theorem test_decode_load : decode 0x1012C00000000000000000000010011 = .load scenario2 := by decide

/-- L-2: opcode 01, payload bytes 01 to 0F. -/
theorem test_decode_load_fields : decode 0x10102030405060708090A0B0C0D0E0F = .load counting := by decide

/-- X-1: opcode 10, low byte 40. -/
theorem test_decode_setExt : decode 0x2000000000000000000000000000040 = .setExt 64 := by decide

/-- P1: opcode 11. -/
theorem test_decode_emit : decode 0x3000000000000000000000000000000 = .emit := by decide

/-- I-2: opcode 00 with a LOAD payload. -/
theorem test_decode_illegal : decode 0x0012C00000000000000000000010011 = .illegal := by decide

/-- R83: the words the assembler writes. -/
theorem test_encode :
    encode (.load scenario2) = 0x1012C00000000000000000000010011 ∧
    encode (.setExt 64) = 0x2000000000000000000000000000040 ∧
    encode .emit = 0x3000000000000000000000000000000 := by decide

/-- The opcode table's rows: `cmd_op` in bits 1:0 (log entry 7). -/
theorem test_decodeTableWord :
    [0, 1, 2, 3].map (decodeTableWord 8) =
      [some .illegal, some (.load ⟨0, 0, 0, 0, 0, 0, 0, 0, 0⟩), some (.setExt 0), some .emit] := by decide

/-! ### The commands, one step each -/

/-- I-2: a LOAD payload under the wrong opcode loads nothing. -/
theorem test_illegal_is_no_load :
    (after (exec (decode 0x0012C00000000000000000000010011) (loadedWith counting))).map (fun t => (t.status, t.pkt)) =
      some (0b0101, counting) := by decide

/-- I-4: decode comes first, so NoPacket is not raised. -/
theorem test_illegal_after_reset :
    (after (step (State.reset.withFetchWord 8 0))).map (·.status) = some 0b0100 := by decide

/-- L-2: every field is replaced. -/
theorem test_load_replaces :
    (after (exec (decode 0x10102030405060708090A0B0C0D0E0F) (loadedWith scenario2))).map (·.pkt) = some counting := by decide

/-- L-4: the error bits stay set. -/
theorem test_load_keeps_errors :
    (after (exec (.load ⟨0, 0, 0, 0, 0, 0, 0, 0, 0⟩) { State.reset with errIllegal := true, errNopkt := true })).map
      (·.status) = some 0b1101 := by decide

/-- X-2: bits 119:8 have no effect. -/
theorem test_setExt_ignores_upper_bits :
    (after (exec (decode 0x2ABCDEF000000000000000000000060) (loadedWith scenario2))).map (fun t => (t.pkt, t.status)) =
      some ({ scenario2 with ext := 96 }, 0b0001) := by decide

/-- X-4: without a Packet. -/
theorem test_setExt_without_packet :
    (after (exec (.setExt 17) State.reset)).map (fun t => (t.status, t.pkt.ext)) = some (0b1000, 0) := by decide

/-- 95 §2.4, source scenario 2: the frame appended. -/
theorem test_emit_scenario2 :
    (after (exec .emit (loadedWith scenario2))).map (·.out) =
      some [0xFF, 0x01, 0x2C, 0, 0, 0, 0, 0, 0, 0, 0, 0, 0, 0x01, 0x00, 0x11, 0xC0] := by decide

/-- E-1: without a Packet nothing is emitted. -/
theorem test_emit_without_packet :
    (after (step (State.reset.withFetchWord 8 3))).map (fun t => (t.status, t.out, t.busy)) =
      some (0b1000, [], false) := by decide

/-! ### The checksum: 95 §2.4, the rows that separate the readings -/

theorem test_checksums :
    [(⟨0, 0, 0, 0, 0, 0, 254, 0, 0⟩ : Packet), ⟨0, 0, 0, 0, 0, 0, 255, 0, 0⟩, ⟨0, 0, 0, 0, 0, 0, 255, 1, 0⟩,
      ⟨0, 0, 0, 0, 0, 0, 255, 255, 1⟩, ⟨255, 256, 65535, 0, 0, 0, 0, 0, 0⟩,
      ⟨65535, 65535, 65535, 65535, 65535, 65535, 255, 255, 255⟩, counting,
      ⟨512, 1024, 2048, 300, 1500, 700, 5, 2, 0⟩, ⟨512, 1024, 2048, 300, 1500, 700, 5, 2, 64⟩].map checksum =
      [0x01, 0xFF, 0xFF, 0xFF, 0x01, 0x0E, 0x87, 0x1E, 0xDE] := by decide

/-! ### The emitter: 95 §2.5 -/

/-- Edge t+16: byte 15 is added to the accumulator. -/
theorem test_transfer_payload :
    (after (step { loadedWith scenario2 with busy := true, idx := 15, acc := 0x2E, inputs := [quiet true] })).map
      (fun t => (t.out, t.acc, t.idx, t.busy)) = some ([0x11], 0x3F, 16, true) := by decide

/-- Edge t+17: the checksum goes out and the frame ends. -/
theorem test_transfer_checksum :
    (after (step { loadedWith scenario2 with busy := true, idx := 16, acc := 0x3F, inputs := [quiet true] })).map
      (fun t => (t.out, t.acc, t.idx, t.busy)) = some ([0xC0], 0, 0, false) := by decide

/-- P6, edge e9: reset wins over a ready sink. -/
theorem test_reset_mid_frame :
    (after (step { inFlight 5 with inputs := [resetting] })).map (fun t => (t.out, t.status, t.pkt.base)) =
      some ([], 0b0000, 0) := by decide

/-! ### The assembler -/

/-- R83 and R84: case, hexadecimal, comments, a blank line, a raw word and a pseudo-instruction. -/
theorem test_assemble :
    assemble "load 300,0,0, 0,0,0, 1,0,0x11 ; scenario 2\n\n.word 0, 0\nSTOP" =
      .ok [0x1012C00000000000000000000010011, 0, 0x2000000000000000000000000000011,
        0x3000000000000000000000000000000] := by decide

/-- R85: the refused line is named. -/
theorem test_assemble_refuses : assemble "EMIT\nSET_EXT 256" = .refused 2 .operandRange := by decide

/-- An ill-formed line for each check of R85: a wrong count, a motion value, a control byte, a raw opcode, a raw payload. -/
theorem test_wellFormed_smoke :
    [AsmLine.mk .setExt [], AsmLine.mk .emit [0], AsmLine.mk .load [65536, 0, 0, 0, 0, 0, 0, 0, 0],
      AsmLine.mk .send [0, 0, 0, 0, 0, 0, 0, 256, 0], AsmLine.mk .emitx [256], AsmLine.mk .word [4, 0],
      AsmLine.mk .word [0, 2 ^ 120]].all (fun l => !l.wellFormed) ∧
    [AsmLine.mk .load [65535, 0, 0, 0, 0, 65535, 255, 255, 255], AsmLine.mk .word [3, 2 ^ 120 - 1],
      AsmLine.mk .sleep []].all (·.wellFormed) := by decide

/-! ### Witnesses: the hypotheses of each statement met together -/

/-- An FFA after reset with these port inputs to come. -/
def withInputs (s : State) (ins : List PortIn) : State := { s with inputs := ins }

theorem witness_ResetEdgeWins : (withInputs (inFlight 5) [resetting]).portIn.rst = true := by decide

theorem witness_OneResetEdgeSuffices :
    (withInputs (inFlight 5) [resetting, resetting]).portIn.rst = true ∧
    ((after (step (withInputs (inFlight 5) [resetting, resetting]))).map (·.portIn.rst)) = some true ∧
    ((after (step (withInputs (inFlight 5) [resetting, offer 0b01 0]))).map fun t => (t.portIn.rst, t.portIn.cmdValid)) =
      some (false, true) := by decide

theorem witness_EdgesBeforeResetRefused :
    let s := withInputs { State.reset with hasReset := false } [offer 0b01 0]
    s.hasReset = false ∧ s.portIn.rst = false := by decide

theorem witness_EveryEdgeHasNextState : State.reset.hasReset = true := by decide

theorem witness_inFlight_good (i : Fin 17) : (inFlight i.val).Good := by
  refine ⟨?_, ⟨[], by simp [inFlight]; revert i; decide⟩, by simp [inFlight, loadedWith]⟩
  revert i
  decide

theorem witness_ResetTruncatesFrame :
    (withInputs (inFlight 16) [resetting]).Good ∧ (withInputs (inFlight 16) [resetting]).busy = true ∧
    (withInputs (inFlight 16) [resetting]).portIn.rst = true :=
  ⟨witness_inFlight_good 16, by decide⟩

theorem witness_OutputPortDrive :
    (inFlight 16).outValid false = true ∧ (inFlight 16).outLast false = true ∧ (inFlight 16).outValid true = false := by decide

theorem witness_EveryEdgeIsOneKind :
    [State.reset.edgeKind resetting, State.reset.edgeKind (offer 0b11 0), (inFlight 0).edgeKind (quiet true),
      (inFlight 16).edgeKind (quiet false), State.reset.edgeKind (quiet true)] =
      [.reset, .accept 0x3000000000000000000000000000000, .transfer, .hold, .idle] := by decide

theorem witness_ReadbackLayout :
    (inFlight 0).hasReset = true ∧ (inFlight 0).pktQ = 0x0102030405060708090A0B0C0D0E0F ∧ pktByte counting 1 = 0x01 ∧ pktByte counting 15 = 0x0F := by decide

theorem witness_PayloadIsBigEndian :
    (0x0102030405060708090A0B0C0D0E0F : Payload).extractLsb' (120 - 8 * 1) 8 = pktByte counting 1 ∧
    (0x0102030405060708090A0B0C0D0E0F : Payload).extractLsb' (120 - 8 * 15) 8 = pktByte counting 15 := by decide

theorem witness_ChecksumFormula :
    ((pktBytes ⟨0, 0, 0, 0, 0, 0, 255, 255, 1⟩ 15).map BitVec.toNat).sum % 256 = 0xFF ∧
    ((pktBytes ⟨0, 0, 0, 0, 0, 0, 255, 1, 0⟩ 15).map BitVec.toNat).sum % 256 = 0x00 ∧
    ((pktBytes ⟨0, 0, 0, 0, 0, 0, 254, 0, 0⟩ 15).map BitVec.toNat).sum % 256 = 254 := by decide

theorem witness_EmittedFrameProperties :
    (loadedWith scenario2).pktValid = true ∧ (loadedWith scenario2).level = .transaction ∧
    (withInputs (loadedWith scenario2) [quiet true]).pkt = (loadedWith scenario2).pkt := by decide

theorem witness_OverlayIsolation : (loadedWith scenario2).pktValid = true := by decide

theorem witness_ChecksumBlindSpots :
    sum8 (pktBytes ⟨0, 0, 0, 0, 0, 0, 255, 0, 0⟩ 15) = 0xFF ∧ sum8 (pktBytes ⟨0, 0, 0, 0, 0, 0, 255, 1, 0⟩ 15) = 0x00 ∧
    sum8 (pktBytes ⟨1, 0, 0, 0, 0, 0, 0, 0, 0⟩ 15) = sum8 (pktBytes ⟨0, 0, 0, 0, 0, 0, 1, 0, 0⟩ 15) := by decide

theorem witness_OpcodeAloneSelects :
    CmdWord.op 0x0012C00000000000000000000010011 = 0b00 ∧ CmdWord.op 0x1012C00000000000000000000010011 = 0b01 ∧
    CmdWord.op 0x2ABCDEF000000000000000000000060 = 0b10 ∧ CmdWord.op 0x3FFFFFFFFFFFFFFFFFFFFFFFFFFFFFF = 0b11 := by decide

theorem witness_IgnoredBitsHaveNoEffect :
    (0xABCDEF000000000000000000000060 : Payload).extractLsb' 0 8 = (0x60 : Payload).extractLsb' 0 8 := by decide

theorem witness_AssemblerOperandRefusal :
    ([65535, 0, 0, 0, 0, 0, 0, 0, 255] : List Nat).length = Mnemonic.load.widths.length ∧
    Mnemonic.load.widths[0]? = some 16 ∧ Mnemonic.load.widths[8]? = some 8 := by decide

theorem witness_LoadConstructsPacket : CmdWord.op 0x1012C00000000000000000000010011 = 0b01 := by decide

theorem witness_IllegalRaisesIllegalOp : CmdWord.op 0x0012C00000000000000000000010011 = 0b00 := by decide

theorem witness_CommandsRepeat :
    (loadedWith counting).pktValid = true ∧ (loadedWith counting).level = .transaction := by decide

theorem witness_SetExtOverridesExtendedByte :
    CmdWord.op 0x2ABCDEF000000000000000000000060 = 0b10 ∧ (loadedWith scenario2).pktValid = true ∧
    State.reset.pktValid = false := by decide

theorem witness_EmitSendsFrame :
    CmdWord.op 0x3FFFFFFFFFFFFFFFFFFFFFFFFFFFFFF = 0b11 ∧ (loadedWith scenario2).pktValid = true ∧
    (loadedWith scenario2).level = .transaction ∧ State.reset.pktValid = false ∧
    ({ loadedWith scenario2 with level := .cycle } : State).level = .cycle ∧
    (withInputs (inFlight 16) [quiet true]).hasReset = true ∧ (withInputs (inFlight 16) [quiet true]).busy = true ∧
    (withInputs (inFlight 16) [quiet true]).portIn.rst = false := by decide

theorem witness_EmitAcceptStartsFrame :
    ({ loadedWith scenario2 with level := .cycle } : State).level = .cycle ∧
    ({ loadedWith scenario2 with level := .cycle } : State).pktValid = true ∧
    ({ State.reset with level := .cycle } : State).pktValid = false := by decide

theorem witness_NoPacketRaised : State.reset.pktValid = false := by decide

theorem witness_CommandFrames : ∃ t, exec .emit (loadedWith scenario2) = .next t := ⟨_, rfl⟩

theorem witness_ShortCommandsKeepReady :
    let s := withInputs State.reset [offer 0b10 17]
    s.hasReset = true ∧ s.accepts s.portIn = true ∧ s.portIn.cmdOp ≠ 0b11 := by decide

theorem witness_ErrorBitsAreSticky :
    let s := withInputs { State.reset with errIllegal := true, errNopkt := true } [offer 0b01 0]
    (∃ t, step s = .next t) ∧ s.portIn.rst = false ∧ s.errIllegal = true ∧ s.errNopkt = true :=
  ⟨⟨_, rfl⟩, by decide⟩

theorem witness_ErrorsDoNotBlock : ∃ t, step (withInputs State.reset [offer 0b11 0]) = .next t := ⟨_, rfl⟩

theorem witness_ErrorsAreAllOrNothing :
    (after (exec .illegal State.reset)).map (·.errIllegal) = some true ∧
    (after (exec .emit State.reset)).map (·.errNopkt) = some true := by decide

theorem witness_ErrorPriority :
    CmdWord.op 0x0 = 0b00 ∧ CmdWord.op 0x10102030405060708090A0B0C0D0E0F = 0b01 ∧
    CmdWord.op 0x2000000000000000000000000000040 = 0b10 ∧ CmdWord.op 0x3000000000000000000000000000000 = 0b11 ∧
    State.reset.pktValid = false ∧ resetting.rst = true ∧
    (after (step (withInputs State.reset [offer 0b00 0]))).isSome = true := by decide

theorem witness_PacketValidWriters :
    (after (step (withInputs State.reset [offer 0b01 0]))).map (·.pktValid) = some true ∧
    (after (step (withInputs (loadedWith counting) [resetting]))).map (·.pktValid) = some false := by decide

theorem witness_PacketRegisterWriters : ∃ t, step (withInputs (loadedWith counting) [offer 0b10 17]) = .next t := ⟨_, rfl⟩

theorem witness_HistoryOnlyGrows :
    let s := withInputs (inFlight 3) [quiet true]
    (∃ t, step s = .next t) ∧ s.portIn.rst = false := ⟨⟨_, rfl⟩, by decide⟩

theorem witness_GoodAfterReset : State.reset.AfterReset := by decide

theorem witness_StepKeepsEmitterInvariant (i : Fin 17) :
    (withInputs (inFlight i.val) [quiet true]).Inv ∧ ∃ t, step (withInputs (inFlight i.val) [quiet true]) = .next t :=
  ⟨(witness_inFlight_good i).1, _, rfl⟩

theorem witness_StepKeepsFramedHistory (i : Fin 17) :
    (withInputs (inFlight i.val) [quiet true]).Good ∧ ∃ t, step (withInputs (inFlight i.val) [quiet true]) = .next t :=
  ⟨witness_inFlight_good i, _, rfl⟩

theorem witness_ReachableStatesAreGood :
    (withInputs State.reset [offer 0b01 0, offer 0b11 0]).AfterReset ∧
    ∃ t, run 2 (withInputs State.reset [offer 0b01 0, offer 0b11 0]) = .next t := ⟨rfl, _, rfl⟩

theorem witness_StepRunsAcceptedCommand :
    let s := withInputs State.reset [offer 0b01 0]
    s.hasReset = true ∧ s.busy = false ∧ s.portIn.rst = false ∧ s.portIn.cmdValid = true := by decide

theorem witness_WithFetchWordRunsIt : decodeTableWord 8 3 = some .emit := by decide

theorem witness_PresentedByte :
    (inFlight 0).idx.toNat ≤ 16 ∧ (inFlight 16).idx.toNat ≤ 16 ∧ (inFlight 16).idx = 16 ∧ (inFlight 0).idx = 0 ∧
    1 ≤ (inFlight 1).idx.toNat ∧ (inFlight 15).idx.toNat ≤ 15 ∧ (inFlight 16).busy = true := by decide

theorem witness_TransferEdge (i : Fin 17) :
    let s := withInputs (inFlight i.val) [quiet true]
    s.hasReset = true ∧ s.portIn.rst = false ∧ s.busy = true ∧ s.portIn.outReady = true := by revert i; decide

theorem witness_HoldEdge :
    let s := withInputs (inFlight 16) [quiet false]
    s.hasReset = true ∧ s.portIn.rst = false ∧ s.busy = true ∧ s.portIn.outReady = false := by decide

theorem witness_IdleEdge :
    let s := withInputs State.reset [quiet true]
    s.hasReset = true ∧ s.portIn.rst = false ∧ s.accepts s.portIn = false ∧ s.transfers s.portIn = false := by decide

theorem witness_CommandPortSampledAtAcceptOnly :
    (inFlight 0).busy = true ∧ (quiet true).cmdValid = false ∧ State.reset.hasReset = true ∧
    State.reset.accepts (offer 0b01 0) = true := by decide

/-- Three hold edges and sixteen ready ones, with commands offered meanwhile. -/
def sixteenReady : List PortIn :=
  List.replicate 3 (quiet false) ++ List.replicate 16 { offer 0b01 0 with outReady := true }

theorem witness_FrameInFlight :
    let s := withInputs (inFlight 0) (sixteenReady ++ [quiet true])
    s.hasReset = true ∧ s.busy = true ∧ s.idx = 0 ∧ s.acc = 0 ∧ s.inputs = sixteenReady ++ [quiet true] ∧
    NoReset sixteenReady ∧ readyEdges sixteenReady ≤ 16 := by decide

theorem witness_CycleLevelRefinesTransaction :
    let s := withInputs { loadedWith counting with level := .cycle } (offer 0b11 0 :: (sixteenReady ++ quiet true :: []))
    (s.hasReset = true ∧ s.Idle ∧ s.pktValid = true ∧ s.level = .cycle ∧
      (offer 0b11 0).rst = false ∧ (offer 0b11 0).cmdValid = true ∧ (offer 0b11 0).cmdOp = 0b11 ∧
      NoReset sixteenReady ∧ readyEdges sixteenReady = 16 ∧ (quiet true).rst = false ∧ (quiet true).outReady = true) ∧
    ∃ t, exec .emit { s with level := .transaction } = .next t := ⟨by decide, _, rfl⟩

theorem witness_EmitTakesEighteenEdges :
    let ins := List.replicate 17 (quiet true)
    let s := withInputs { loadedWith counting with level := .cycle } (offer 0b11 0 :: (ins ++ []))
    s.hasReset = true ∧ s.Idle ∧ s.pktValid = true ∧ s.level = .cycle ∧ NoReset ins ∧ ins.length = 17 ∧
    readyEdges ins = 17 ∧ (List.replicate 16 (quiet true)).length ≤ 16 := by decide

theorem witness_UnreadySinkHangs :
    let ins := List.replicate 3 (quiet false)
    (withInputs (inFlight 4) ins).hasReset = true ∧ (withInputs (inFlight 4) ins).busy = true ∧ NoReset ins ∧
    readyEdges ins = 0 := by decide

/-- The reviewer's run: a LOAD, an idle edge, and a command offered at a reset edge. -/
def loadThenReset : State := withInputs State.reset [offer 0b01 0, quiet true, resetting]

/-- The run of that LOAD ends after one edge, before the reset, whose command is not accepted (R153, R156). -/
theorem test_run_ends_before_reset :
    RunEndsAt [(offer 0b01 0).word] loadThenReset 1 ((after (run 1 loadThenReset)).getD State.reset) ∧
    acceptedWords 3 loadThenReset = [(offer 0b01 0).word] := by
  refine ⟨⟨⟨rfl, by decide, by decide⟩, fun j hj u h => ?_⟩, by decide⟩
  obtain rfl : j = 0 := by omega
  exact absurd h.2.1 (by decide)

theorem witness_EndOfRun_observation :
    let t := (after (run 1 loadThenReset)).getD State.reset
    t.hasReset = true ∧ t.inputs = [quiet true] ++ [resetting] ∧ NoReset [quiet true] ∧
    ∀ p ∈ [quiet true], p.cmdValid = false := by decide

theorem witness_EndOfRun_short :
    loadThenReset.hasReset = true ∧ loadThenReset.accepts loadThenReset.portIn = true ∧
    loadThenReset.portIn.cmdOp ≠ 0b11 := by decide

/-- The hypotheses of the EMIT clause of EndOfRun are those of CycleLevelRefinesTransaction. -/
theorem witness_EndOfRun_emit :
    let s := withInputs { loadedWith counting with level := .cycle } (offer 0b11 0 :: (sixteenReady ++ quiet true :: []))
    s.hasReset = true ∧ s.Idle ∧ s.pktValid = true ∧ s.level = .cycle ∧ NoReset sixteenReady ∧
    readyEdges sixteenReady = 16 ∧ (offer 0b11 0).cmdOp = 0b11 ∧ (quiet true).outReady = true := by decide

/-- Two FFAs, the second with a LOAD to accept. -/
def twoFfas : System := ⟨[loadedWith counting, withInputs State.reset [offer 0b01 0]]⟩

theorem witness_InstancesAreIndependent : ∃ sys', twoFfas.stepAt 1 = .next sys' := ⟨_, rfl⟩

theorem witness_InstancesAreIndependent_streams :
    (twoFfas.ffa 0).map (·.stream) = some 0 ∧ (twoFfas.ffa 1).map (·.stream) = some 1 ∧ twoFfas.ffa 2 = none := by decide

end Sys2Proof.Tests
end

section
/-! The ports of 10_state R34 to R36, and what writes `pkt_valid` (R24). -/

namespace Sys2Proof

/-! ### The command port's word -/

/-- The word on the command port is `cmd_op` over `cmd_payload` (R74). -/
theorem portIn_word (p : PortIn) : p.word = CmdWord.ofParts p.cmdOp p.cmdPayload := rfl

/-- A word decodes to a LOAD exactly by its opcode, and the LOAD carries the Packet its payload spells (R76, R78). -/
theorem decode_eq_load_iff {w : CmdWord} {p : Packet} :
    decode w = .load p ↔ CmdWord.op w = 0b01 ∧ p = Packet.ofPayload (CmdWord.payload w) := by
  have hop : Opcode.ofBits (CmdWord.op w) = .load ↔ CmdWord.op w = 0b01 := by
    generalize CmdWord.op w = op
    revert op
    decide
  rw [← hop, decode]
  cases Opcode.ofBits (CmdWord.op w) <;> simp [eq_comm]

end Sys2Proof

namespace Sys2Proof.Machine

/-! ### The payload layout, byte by byte -/

/-- A slice within a slice is a slice. -/
theorem extractLsb'_extractLsb' {w lo m lo' n : Nat} (x : BitVec w) (h : lo' + n ≤ m) :
    (x.extractLsb' lo m).extractLsb' lo' n = x.extractLsb' (lo + lo') n := by
  apply BitVec.eq_of_getLsbD_eq
  intro i hi
  have him : lo' + i < m := by omega
  simp [hi, him, Nat.add_assoc]

/-- Byte `k` of the Packet a payload spells stands at the payload's bits `127-8k` to `120-8k` (R77, R101): each byte is a slice
of a field, and each field a slice of the payload. -/
theorem pktByte_ofPayload (pl : Payload) {k : Nat} (h1 : 1 ≤ k) (h15 : k ≤ 15) :
    pktByte (Packet.ofPayload pl) k = pl.extractLsb' (120 - 8 * k) 8 := by
  interval_cases k <;>
    simp [pktByte, Packet.ofPayload, highByte, lowByte, extractLsb'_extractLsb']

/-- The payload that spells a Packet has the Packet's byte `k` at its bits `127-8k` to `120-8k` (R36, R77). -/
theorem toPayload_extractLsb' (p : Packet) {k : Nat} (h1 : 1 ≤ k) (h15 : k ≤ 15) :
    p.toPayload.extractLsb' (120 - 8 * k) 8 = pktByte p k := by
  rw [← pktByte_ofPayload _ h1 h15, packet_ofPayload_toPayload]

/-! ### The ports -/

/-- After a reset the readback port drives `pkt_q` whatever `rst` is (R36, R141). -/
theorem portOut_pktQ {s : State} (h : s.hasReset = true) (rst : Bool) : (s.portOut rst).pktQ = s.pktQ := by
  simp [State.portOut, h]

theorem cmdReady_eq_true_iff (s : State) (rst : Bool) : s.cmdReady rst = true ↔ s.busy = false ∧ rst = false := by
  simp [State.cmdReady]

theorem accepts_eq_true_iff (s : State) (p : PortIn) :
    s.accepts p = true ↔ p.cmdValid = true ∧ s.cmdReady p.rst = true := by
  simp [State.accepts]

/-- An accepted command is not at a reset edge (R34, R156). -/
theorem rst_of_accepts {s : State} {p : PortIn} (h : s.accepts p = true) : p.rst = false :=
  have ⟨_, hready⟩ := (accepts_eq_true_iff ..).1 h
  ((cmdReady_eq_true_iff ..).1 hready).2

theorem outValid_eq_true_iff (s : State) (rst : Bool) : s.outValid rst = true ↔ s.busy = true ∧ rst = false := by
  simp [State.outValid]

theorem outData_of_outValid {s : State} {rst : Bool} (h : s.outValid rst = true) : s.outData rst = s.frameByteAt := by
  simp [State.outData, h]

/-- The last byte is presented exactly at offset 16, the offset as the 5-bit register (R35). -/
theorem atLast_eq_true_iff_idx (s : State) : s.atLast = true ↔ s.idx = 16 := by
  rw [atLast_iff, ← BitVec.toNat_inj]
  rfl

theorem outLast_eq_true_iff (s : State) (rst : Bool) :
    s.outLast rst = true ↔ s.outValid rst = true ∧ s.idx = 16 := by
  rw [State.outLast, Bool.and_eq_true, atLast_eq_true_iff_idx]

theorem outLast_of_not_outValid {s : State} {rst : Bool} (h : s.outValid rst = false) : s.outLast rst = false := by
  simp [State.outLast, h]

theorem transfers_eq_true_iff (s : State) (p : PortIn) :
    s.transfers p = true ↔ s.outValid p.rst = true ∧ p.outReady = true := by
  simp [State.transfers]

/-! ### The writers of `pkt_valid` -/

/-- A command leaves `pkt_valid` as it was, unless it is a LOAD, which sets it (R24, R90 to R92, R105, R108). -/
theorem exec_pktValid {i : Instr} {s t : State} (h : exec i s = .next t) :
    ((∃ p, i = .load p) ∧ t.pktValid = true) ∨ ((∀ p, i ≠ .load p) ∧ t.pktValid = s.pktValid) := by
  rcases exec_cases h with ⟨rfl, rfl⟩ | ⟨p, rfl, rfl⟩ | ⟨v, rfl, -, rfl⟩ | ⟨rfl, -, -, rfl⟩ | ⟨rfl, -, -, rfl⟩ |
    ⟨rfl | ⟨v, rfl⟩, -, rfl⟩ <;> simp

/-- A LOAD is accepted at the coming edge (R34, R90). -/
abbrev State.AcceptsLoad (s : State) : Prop := s.accepts s.portIn = true ∧ s.portIn.cmdOp = 0b01

/-- The command on the port is a LOAD exactly when `cmd_op` says so (R76). -/
theorem decode_portIn_eq_load_iff {s : State} : (∃ p, decode s.portIn.word = .load p) ↔ s.portIn.cmdOp = 0b01 := by
  simp [decode_eq_load_iff, portIn_word]

/-- The value of `pkt_valid` after an edge: reset clears it, an accepted LOAD sets it, every other edge keeps it (R24). -/
theorem step_pktValid {s t : State} (h : step s = .next t) :
    t.pktValid = if s.portIn.rst = true then false else if s.AcceptsLoad then true else s.pktValid := by
  rcases step_cases h with ⟨hr, rfl⟩ | ⟨hr, -, hb, hc, he⟩ | ⟨hr, -, hb, -, rfl⟩ | ⟨hr, -, hb, -, rfl⟩ | ⟨hr, -, -, hc, rfl⟩
  · simp [hr]
  · have ha : s.accepts s.portIn = true := (accepts_eq_true_iff ..).2 ⟨hc, (cmdReady_eq_true_iff ..).2 ⟨hb, hr⟩⟩
    rcases exec_pktValid he with ⟨hl, ht⟩ | ⟨hl, ht⟩
    · simp [hr, ha, ht, decode_portIn_eq_load_iff.1 hl]
    · have hload : ¬s.AcceptsLoad := fun hal => (decode_portIn_eq_load_iff.2 hal.2).elim hl
      rw [if_neg (by simp [hr]), if_neg hload, ht, advance_pktValid]
  · have hv := (transferByte_outside s.advance).2.1
    simp [hr, hb, hv, accepts_eq_true_iff, cmdReady_eq_true_iff]
  · simp [hr, hb, accepts_eq_true_iff, cmdReady_eq_true_iff]
  · simp [hr, hc, accepts_eq_true_iff]

/-- SET_EXT without a Packet raises NoPacket (R91). -/
theorem execSetExt_of_not_pktValid {s : State} (h : s.pktValid = false) (v : Byte) :
    exec (.setExt v) s = .next (s.raise .noPacket) := by
  simp [exec, execSetExt, h]

/-- EMIT without a Packet raises NoPacket at either level (R105, R108). -/
theorem execEmit_of_not_pktValid {s : State} (h : s.pktValid = false) :
    exec .emit s = .next (s.raise .noPacket) := by
  simp [exec, execEmit, h]

/-! ### The obligations -/

/-- Settles O10: `pkt_q` is the register spelled as a payload, so it reads back as the register, and its bytes are the Packet's. -/
theorem readbackLayout : Obligations.ReadbackLayout := fun s =>
  ⟨rfl, packet_ofPayload_toPayload s.pkt, portOut_pktQ, fun _ => toPayload_extractLsb' s.pkt⟩

/-- Settles O41, from the value `pkt_valid` has after an edge and the NoPacket cases of SET_EXT and EMIT. -/
theorem packetValidWriters : Obligations.PacketValidWriters := by
  refine ⟨fun s t h => ?_, fun s hv => ⟨execSetExt_of_not_pktValid hv, execEmit_of_not_pktValid hv⟩⟩
  rw [step_pktValid h]
  refine ⟨fun hs ht => ?_, fun hs ht => ?_, fun _ ha hop => ?_⟩
  · by_contra hload
    simp [hs, hload] at ht
  · by_contra hr
    simp [hs, hr] at ht
  · simp [rst_of_accepts ha, ha, hop]

/-- Settles O8: the ready output and the accept condition are R34's. -/
theorem commandHandshake : Obligations.CommandHandshake := fun s p =>
  ⟨cmdReady_eq_true_iff s p.rst, accepts_eq_true_iff s p⟩

/-- Settles O9: each output of the port, and the transfer condition, by its own lemma. -/
theorem outputPortDrive : Obligations.OutputPortDrive := fun s p =>
  ⟨outValid_eq_true_iff s p.rst, outData_of_outValid, outLast_eq_true_iff s p.rst, outLast_of_not_outValid,
    transfers_eq_true_iff s p⟩

end Sys2Proof.Machine
end

section
/-! The big-endian order of payload, readback and motion fields (20_memory R52). -/

namespace Sys2Proof.Machine

@[simp] theorem highByte_toNat (v : Motion) : (highByte v).toNat = v.toNat / 256 := by
  have hv : v.toNat < 256 * 256 := v.isLt
  simp [highByte, Nat.shiftRight_eq_div_pow, Nat.mod_eq_of_lt (Nat.div_lt_of_lt_mul hv)]

@[simp] theorem lowByte_toNat (v : Motion) : (lowByte v).toNat = v.toNat % 256 := by
  simp [lowByte]

/-- The two bytes of a motion field spell it again (R72). -/
theorem highByte_mul_add_lowByte (v : Motion) : (highByte v).toNat * 256 + (lowByte v).toNat = v.toNat := by
  rw [highByte_toNat, lowByte_toNat, Nat.div_add_mod']

/-- The bytes at offsets `2i+1` and `2i+2` spell motion field `i` (R51, R101). -/
theorem motionField_eq_pktBytes (p : Packet) (i : Fin 6) :
    ([p.base, p.shoulder, p.elbow, p.wristAngle, p.wristRotation, p.gripper].get i).toNat =
      (pktByte p (2 * i.val + 1)).toNat * 256 + (pktByte p (2 * i.val + 2)).toNat := by
  match i with
  | 0 | 1 | 2 | 3 | 4 | 5 => exact (highByte_mul_add_lowByte _).symm

/-- Settles O14: the payload's bytes are slices of it, `pkt_q` is the register's payload, and each motion field is split
high byte first. -/
theorem payloadIsBigEndian : Obligations.PayloadIsBigEndian :=
  ⟨fun pl _ h1 h15 => (pktByte_ofPayload pl h1 h15).symm, fun s _ => toPayload_extractLsb' s.pkt, motionField_eq_pktBytes⟩

end Sys2Proof.Machine
end

section
/-! What a command word decodes to (30_encoding R75 to R78): the opcode alone selects the command, and each command reads its
own payload bits. -/

namespace Sys2Proof

/-- The opcode of the decoded command is the one `cmd_op` names; no payload bit takes part (R75). -/
theorem decode_opcode (w : CmdWord) : (decode w).opcode = Opcode.ofBits (CmdWord.op w) := by
  rw [decode]
  cases Opcode.ofBits (CmdWord.op w) <;> rfl

/-- A word whose `cmd_op` is an opcode's bits decodes to a command of that opcode (R76). -/
theorem decode_opcode_of_op {w : CmdWord} {o : Opcode} (h : CmdWord.op w = o.bits) : (decode w).opcode = o := by
  rw [decode_opcode, h, opcode_ofBits_bits]

@[simp] theorem decode_ofParts_illegal (pl : Payload) : decode (CmdWord.ofParts 0b00 pl) = .illegal := by
  simp [decode, Opcode.ofBits]

@[simp] theorem decode_ofParts_load (pl : Payload) :
    decode (CmdWord.ofParts 0b01 pl) = .load (Packet.ofPayload pl) := by
  simp [decode, Opcode.ofBits]

@[simp] theorem decode_ofParts_setExt (pl : Payload) :
    decode (CmdWord.ofParts 0b10 pl) = .setExt (pl.extractLsb' 0 8) := by
  simp [decode, Opcode.ofBits]

@[simp] theorem decode_ofParts_emit (pl : Payload) : decode (CmdWord.ofParts 0b11 pl) = .emit := by
  simp [decode, Opcode.ofBits]

/-- Settles O21: `cmd_op` is the bits of its opcode, and the decoded opcode is a function of `cmd_op`. -/
theorem opcodeAloneSelects : Obligations.OpcodeAloneSelects := by
  refine ⟨fun w => ⟨?illegal, ?load, ?setExt, ?emit⟩, fun w w' h => ?alone⟩
  case illegal => exact decode_opcode_of_op (o := .illegal)
  case load => exact decode_opcode_of_op (o := .load)
  case setExt => exact decode_opcode_of_op (o := .setExt)
  case emit => exact decode_opcode_of_op (o := .emit)
  case alone => rw [decode_opcode, decode_opcode, h]

/-- Settles O22: what each opcode's word decodes to shows the bits it reads, and the written payloads are the assembler's. -/
theorem ignoredBitsHaveNoEffect : Obligations.IgnoredBitsHaveNoEffect := by
  refine ⟨fun v => (Laws.WrittenWord.setExt v).2, Laws.WrittenWord.emit.2, Laws.WrittenWord.illegal.2, fun op pl pl' => ?_⟩
  refine ⟨?load, ?setExt, ?setExt_agree, ?emit, ?illegal⟩
  case load =>
    rintro rfl
    exact decode_ofParts_load pl
  case setExt =>
    rintro rfl
    exact decode_ofParts_setExt pl
  case setExt_agree =>
    rintro rfl h
    rw [decode_ofParts_setExt, decode_ofParts_setExt, h]
  case emit =>
    rintro rfl
    rw [decode_ofParts_emit, decode_ofParts_emit]
  case illegal =>
    rintro rfl
    rw [decode_ofParts_illegal, decode_ofParts_illegal]

end Sys2Proof
end

section
/-! The split of a motion field (30_encoding R72), and the lines of the pseudo-instructions (R84). -/

namespace Sys2Proof.Machine

/-- The `mod 256` on the high byte never changes a value, since a motion field has 16 bits (R72). -/
theorem highByte_toNat_mod (v : Motion) : (highByte v).toNat = v.toNat / 256 % 256 := by
  have hlt : (highByte v).toNat < 256 := (highByte v).isLt
  rw [highByte_toNat] at hlt ⊢
  exact (Nat.mod_eq_of_lt hlt).symm

/-- Settles O13: the two bytes' values and their join, the slices by definition, and the control bytes by `PktByte`'s table. -/
theorem fieldSplitRoundTrip : Obligations.FieldSplitRoundTrip :=
  ⟨fun v => ⟨highByte_toNat_mod v, rfl, lowByte_toNat v, rfl, highByte_mul_add_lowByte v⟩, fun _ => ⟨rfl, rfl, rfl⟩⟩

/-! ### Lines the assembler takes -/

/-- A line that passes both checks of R85 gives its mnemonic's words. -/
theorem asmLine_eq_ok {l : AsmLine} {ws : List CmdWord} (h : l.wellFormed = true)
    (hws : asmWords l.mnemonic l.operands = ws) : asmLine l = .ok ws := by
  obtain ⟨hcount, hrange⟩ := Bool.and_eq_true_iff.1 h
  simp [asmLine, hcount, hrange, hws]

/-- The two checks of R85: the operand count, and each operand below the bound of its width. -/
theorem wellFormed_iff (l : AsmLine) :
    l.wellFormed = true ↔ l.operands.length = l.mnemonic.widths.length ∧
      ∀ vw ∈ l.operands.zip l.mnemonic.widths, vw.1 < 2 ^ vw.2 := by
  simp only [AsmLine.wellFormed, AsmLine.countOk, AsmLine.rangeOk, Bool.and_eq_true, beq_iff_eq, List.all_eq_true,
    decide_eq_true_iff]

/-- The nine operands of a `LOAD` or `SEND` line that spell this Packet (R83, R84). -/
def packetOperands (p : Packet) : List Nat :=
  [p.base.toNat, p.shoulder.toNat, p.elbow.toNat, p.wristAngle.toNat, p.wristRotation.toNat,
    p.gripper.toNat, p.delta.toNat, p.button.toNat, p.ext.toNat]

/-- A Packet's fields fit the operand widths of `LOAD` and `SEND`, since they are exactly that wide (R72, R85). -/
theorem wellFormed_packetOperands {m : Mnemonic} (h : m.widths = [16, 16, 16, 16, 16, 16, 8, 8, 8]) (p : Packet) :
    AsmLine.wellFormed ⟨m, packetOperands p⟩ = true := by
  rw [wellFormed_iff, h]
  simp [packetOperands, BitVec.isLt, -Nat.reducePow]

/-- A byte fits the one operand of `SET_EXT` and `EMITX` (R85). -/
theorem wellFormed_byteOperand {m : Mnemonic} (h : m.widths = [8]) (v : Byte) :
    AsmLine.wellFormed ⟨m, [v.toNat]⟩ = true := by
  rw [wellFormed_iff, h]
  simp [BitVec.isLt, -Nat.reducePow]

@[simp] theorem setExtWord_toNat (v : Byte) : setExtWord v.toNat = encode (.setExt v) := by
  simp [setExtWord]

@[simp] theorem emitxWords_toNat (v : Byte) : emitxWords v.toNat = [encode (.setExt v), encode .emit] := by
  simp [emitxWords]

@[simp] theorem loadWords_packetOperands (p : Packet) : loadWords (packetOperands p) = [encode (.load p)] := by
  simp [loadWords, packetOperands]

/-- `SEND` is `LOAD` then `EMIT` (R84). -/
theorem asmWords_send_packetOperands (p : Packet) :
    asmWords .send (packetOperands p) = [encode (.load p), encode .emit] := by
  simp [asmWords]

/-- Settles O26: each line passes the checks of R85, and its words are those of `EMITX` with its byte, or of `SEND`. -/
theorem pseudoInstructionExpansions : Obligations.PseudoInstructionExpansions := by
  refine ⟨fun v => ?emitx, ?stop, ?resetArm, ?sleep, fun p => ?send⟩
  case emitx => exact asmLine_eq_ok (wellFormed_byteOperand rfl v) (emitxWords_toNat v)
  case stop => exact asmLine_eq_ok rfl (emitxWords_toNat Config.stopCode)
  case resetArm => exact asmLine_eq_ok rfl (emitxWords_toNat Config.resetCode)
  case sleep => exact asmLine_eq_ok rfl (emitxWords_toNat Config.sleepCode)
  case send => exact asmLine_eq_ok (wellFormed_packetOperands rfl p) (asmWords_send_packetOperands p)

end Sys2Proof.Machine
end

section
/-! The packet-register commands LOAD, SET_EXT and ILLEGAL (40_packet_ops): what each does to the state, to the frame, and at
the edge that accepts it. -/

namespace Sys2Proof

/-! ### What a word with a given opcode decodes to -/

/-- A word decodes as its own two parts (R74). -/
theorem decode_of_op {w : CmdWord} {op : BitVec 2} (h : CmdWord.op w = op) :
    decode w = decode (CmdWord.ofParts op (CmdWord.payload w)) := by
  rw [← h, cmdWord_ofParts_parts]

/-- `cmd_op` is the bits of the decoded command's opcode (R75, R76). -/
theorem op_eq_decode_opcode_bits (w : CmdWord) : CmdWord.op w = (decode w).opcode.bits := by
  rw [decode_opcode, opcode_bits_ofBits]

/-- Only `cmd_op = 0b11` spells EMIT (R76). -/
theorem decode_ne_emit {w : CmdWord} (h : CmdWord.op w ≠ 0b11) : decode w ≠ .emit := by
  intro he
  rw [op_eq_decode_opcode_bits, he] at h
  exact h rfl

/-- A slice of the payload is the same slice of the word: the payload is the word's low end (R74). -/
theorem payload_extractLsb' (w : CmdWord) {lo n : Nat} (h : lo + n ≤ 120) :
    (CmdWord.payload w).extractLsb' lo n = w.extractLsb' lo n := by
  rw [CmdWord.payload, Machine.extractLsb'_extractLsb' w h, Nat.zero_add]

/-- The Packet of a word's payload, field by field as slices of the word (R77, R90). -/
theorem ofPayload_payload (w : CmdWord) : Packet.ofPayload (CmdWord.payload w) =
    { base          := w.extractLsb' 104 16
      shoulder      := w.extractLsb' 88 16
      elbow         := w.extractLsb' 72 16
      wristAngle    := w.extractLsb' 56 16
      wristRotation := w.extractLsb' 40 16
      gripper       := w.extractLsb' 24 16
      delta         := w.extractLsb' 16 8
      button        := w.extractLsb' 8 8
      ext           := w.extractLsb' 0 8 } := by
  simp [Packet.ofPayload, payload_extractLsb']

end Sys2Proof

namespace Sys2Proof.Machine

/-! ### The commands' effects -/

/-- `status[2]` is `err_illegal`: `pkt_valid` and `busy` stand below it (R30). -/
theorem status_getLsbD_two (s : State) : s.status.getLsbD 2 = s.errIllegal := by
  simp only [State.status, BitVec.getLsbD_append, BitVec.getLsbD_ofBool]
  simp

/-- ILLEGAL raises IllegalOp, with or without a Packet (R92). -/
theorem exec_illegal (s : State) : exec .illegal s = .next (s.raise .illegalOp) := rfl

/-- LOAD replaces the Packet and sets `pkt_valid` (R90). -/
theorem exec_load (p : Packet) (s : State) : exec (.load p) s = .next (s.loadPacket p) := rfl

/-- SET_EXT with a Packet replaces its extended byte (R91). -/
theorem execSetExt_of_pktValid {s : State} (h : s.pktValid = true) (v : Byte) :
    exec (.setExt v) s = .next (s.overrideExt v) := by
  simp [exec, execSetExt, h]

/-- Every command but EMIT leaves the history and the emitter alone (R94). -/
theorem exec_emitter_of_ne_emit {i : Instr} {s t : State} (h : exec i s = .next t) (hi : i ≠ .emit) :
    t.out = s.out ∧ t.busy = s.busy ∧ t.idx = s.idx ∧ t.acc = s.acc := by
  rcases exec_cases h with ⟨-, rfl⟩ | ⟨p, -, rfl⟩ | ⟨v, -, -, rfl⟩ | ⟨he, -⟩ | ⟨he, -⟩ | ⟨-, -, rfl⟩
  · simp
  · simp
  · simp
  · exact absurd he hi
  · exact absurd he hi
  · simp

/-! ### The frame around the extended byte -/

/-- The frame byte at a payload offset is `PktByte` there (R104). -/
theorem frame_getElem?_payload (p : Packet) {k : Nat} (h1 : 1 ≤ k) (h15 : k ≤ 15) :
    (frame p)[k]? = some (pktByte p k) := by
  obtain ⟨n, rfl⟩ := Nat.exists_eq_add_of_le' h1
  have hn : n < 15 := h15
  rw [frame, List.getElem?_cons_succ, List.getElem?_append_left (by simpa using hn)]
  simp [pktBytes, hn, Nat.add_comm]

/-- The payload bytes at offsets 1 to 14 do not depend on the extended byte (R101). -/
theorem pktByte_ext_update (p : Packet) (v : Byte) {k : Nat} (h1 : 1 ≤ k) (h14 : k ≤ 14) :
    pktByte { p with ext := v } k = pktByte p k := by
  interval_cases k <;> rfl

theorem pktBytes_ext_update (p : Packet) (v : Byte) {n : Nat} (h : n ≤ 14) :
    pktBytes { p with ext := v } n = pktBytes p n := by
  refine List.map_congr_left fun k hk => ?_
  rw [List.mem_range'_1] at hk
  exact pktByte_ext_update p v hk.1 (by omega)

/-! ### The edge that accepts a command -/

@[simp] theorem accepts_advance (s : State) (p : PortIn) : s.advance.accepts p = s.accepts p := rfl

/-- At an edge that accepts a command the step is that command's effect, past the edge (R34, R113). -/
theorem step_of_accepts {s : State} (hr : s.hasReset = true) (ha : s.accepts s.portIn = true) :
    step s = exec (decode s.portIn.word) s.advance := by
  have hk : s.advance.edgeKind s.portIn = .accept s.portIn.word := by
    simp [State.edgeKind, rst_of_accepts ha, hr, ha]
  rw [step, clockEdge, hk]

theorem busy_of_accepts {s : State} {p : PortIn} (h : s.accepts p = true) : s.busy = false :=
  have ⟨_, hready⟩ := (accepts_eq_true_iff ..).1 h
  ((cmdReady_eq_true_iff ..).1 hready).1

/-! ### The obligations -/

/-- Settles O18: the first fifteen frame bytes are the header and payload bytes 1 to 14, none of which reads the extended byte;
offset 15 is the extended byte itself. -/
theorem overlayIsolation : Obligations.OverlayIsolation := by
  intro s v h
  refine ⟨s.overrideExt v, execSetExt_of_pktValid h v, ?_, ?_⟩
  · rw [overrideExt_pkt, frame_take_succ _ (by decide), frame_take_succ _ (by decide), pktBytes_ext_update _ _ le_rfl]
  · exact frame_getElem?_payload _ (by decide) le_rfl

/-- Settles O28: the word decodes to the LOAD of its payload's Packet, and a LOAD writes its Packet and `pkt_valid`. -/
theorem loadConstructsPacket : Obligations.LoadConstructsPacket := by
  refine fun w s h => ⟨?_, fun p => exec_load p s⟩
  rw [decode_of_op h, decode_ofParts_load, exec_load, ofPayload_payload]
  rfl

/-- Settles O29: the word decodes to the SET_EXT of its low byte, which then does as `pkt_valid` says. -/
theorem setExtOverridesExtendedByte : Obligations.SetExtOverridesExtendedByte := by
  intro w s h
  have hd : decode w = .setExt (w.extractLsb' 0 8) := by
    rw [decode_of_op h, decode_ofParts_setExt, payload_extractLsb' w (by decide)]
  rw [hd]
  exact ⟨fun hv => execSetExt_of_pktValid hv _, fun hv => execSetExt_of_not_pktValid hv _,
    fun v8 hv => execSetExt_of_pktValid hv v8⟩

/-- Settles O30: the word decodes to ILLEGAL whatever its payload, and ILLEGAL raises IllegalOp. -/
theorem illegalRaisesIllegalOp : Obligations.IllegalRaisesIllegalOp := by
  intro w s h
  have hd : decode w = .illegal := by rw [decode_of_op h, decode_ofParts_illegal]
  rw [hd]
  exact ⟨exec_illegal s, exec_illegal s, status_getLsbD_two _, rfl⟩

/-- Settles O36: the step at the accept edge is the command's effect, and no command but EMIT sets `busy`, which is 0 there. -/
theorem shortCommandsKeepReady : Obligations.ShortCommandsKeepReady := by
  intro s hr ha hop
  obtain ⟨t, ht⟩ := exec_answers (decode s.portIn.word) s.advance
  have hne : decode s.portIn.word ≠ .emit := decode_ne_emit (by rwa [portIn_word, cmdWord_op_ofParts])
  obtain ⟨-, hbusy, -, -⟩ := exec_emitter_of_ne_emit ht hne
  have hidle : t.busy = false := by rw [hbusy, advance_busy, busy_of_accepts ha]
  exact ⟨t, ht, (step_of_accepts hr ha).trans ht, hidle, (cmdReady_eq_true_iff ..).2 ⟨hidle, rfl⟩⟩

end Sys2Proof.Machine
end

section
/-! The kind of an edge (41_frame_emit R113), and the step at a transfer, a hold and an idle edge (R110 to R112). -/

namespace Sys2Proof.Machine

/-! ### Each kind's condition -/

/-- The condition of each kind of edge, as R113 lists them; after a reset no edge is one before it (R141). -/
def State.KindCondition (s : State) (p : PortIn) : EdgeKind → Prop
  | .reset       => p.rst = true
  | .beforeReset => False
  | .accept w    => s.accepts p = true ∧ w = p.word
  | .transfer    => s.transfers p = true
  | .hold        => s.outValid p.rst = true ∧ p.outReady = false
  | .idle        => p.rst = false ∧ s.busy = false ∧ s.accepts p = false

/-- An edge meets the condition of its kind. -/
theorem kindCondition_edgeKind {s : State} (hr : s.hasReset = true) (p : PortIn) :
    s.KindCondition p (s.edgeKind p) := by
  unfold State.edgeKind
  split_ifs with hrst hreset haccept htransfer hbusy
  · exact hrst
  · simp [hr] at hreset
  · exact ⟨haccept, rfl⟩
  · exact htransfer
  · have hvalid : s.outValid p.rst = true := (outValid_eq_true_iff ..).2 ⟨hbusy, Bool.eq_false_iff.2 hrst⟩
    exact ⟨hvalid, Bool.eq_false_iff.2 fun h => htransfer ((transfers_eq_true_iff ..).2 ⟨hvalid, h⟩)⟩
  · exact ⟨Bool.eq_false_iff.2 hrst, Bool.eq_false_iff.2 hbusy, Bool.eq_false_iff.2 haccept⟩

/-- While the output is valid no command is accepted: `out_valid` needs `busy`, `cmd_ready` needs its absence (R113). -/
theorem accepts_of_outValid {s : State} {p : PortIn} (h : s.outValid p.rst = true) : s.accepts p = false := by
  have ⟨hbusy, _⟩ := (outValid_eq_true_iff ..).1 h
  simp [State.accepts, State.cmdReady, hbusy]

/-- An edge that meets the condition of a kind is of that kind. -/
theorem edgeKind_of_kindCondition {s : State} {p : PortIn} {k : EdgeKind} (hr : s.hasReset = true)
    (h : s.KindCondition p k) : s.edgeKind p = k := by
  cases k with
  | reset => exact if_pos h
  | beforeReset => exact h.elim
  | accept w =>
    obtain ⟨haccept, rfl⟩ := h
    simp [State.edgeKind, hr, rst_of_accepts haccept, haccept]
  | transfer =>
    have htransfer : s.transfers p = true := h
    have ⟨hvalid, _⟩ := (transfers_eq_true_iff ..).1 htransfer
    have ⟨_, hrst⟩ := (outValid_eq_true_iff ..).1 hvalid
    simp [State.edgeKind, hr, hrst, accepts_of_outValid hvalid, htransfer]
  | hold =>
    obtain ⟨hvalid, hready⟩ := h
    have ⟨hbusy, hrst⟩ := (outValid_eq_true_iff ..).1 hvalid
    simp [State.edgeKind, State.transfers, hr, hrst, accepts_of_outValid hvalid, hready, hbusy]
  | idle =>
    obtain ⟨hrst, hbusy, haccept⟩ := h
    simp [State.edgeKind, State.transfers, State.outValid, hr, hrst, hbusy, haccept]

/-- After a reset the kinds' conditions are exclusive and exhaustive (R113). -/
theorem edgeKind_eq_iff {s : State} {p : PortIn} {k : EdgeKind} (hr : s.hasReset = true) :
    s.edgeKind p = k ↔ s.KindCondition p k :=
  ⟨fun h => h ▸ kindCondition_edgeKind hr p, edgeKind_of_kindCondition hr⟩

/-! ### The step of each kind -/

@[simp] theorem edgeKind_advance (s : State) (p : PortIn) : s.advance.edgeKind p = s.edgeKind p := rfl

/-- At a transfer edge the step moves the presented byte (R110). -/
theorem step_of_transfers {s : State} (hr : s.hasReset = true) (h : s.transfers s.portIn = true) :
    step s = .next s.advance.transferByte := by
  rw [step, clockEdge, edgeKind_advance, edgeKind_of_kindCondition (k := .transfer) hr h]

/-- At a hold edge only the edge itself passes (R111). -/
theorem step_of_hold {s : State} (hr : s.hasReset = true) (hv : s.outValid s.portIn.rst = true)
    (ho : s.portIn.outReady = false) : step s = .next s.advance := by
  rw [step, clockEdge, edgeKind_advance, edgeKind_of_kindCondition (k := .hold) hr ⟨hv, ho⟩]

/-- At an idle edge only the edge itself passes (R112). -/
theorem step_of_idle {s : State} (hr : s.hasReset = true) (hrst : s.portIn.rst = false) (hb : s.busy = false)
    (ha : s.accepts s.portIn = false) : step s = .next s.advance := by
  rw [step, clockEdge, edgeKind_advance, edgeKind_of_kindCondition (k := .idle) hr ⟨hrst, hb, ha⟩]

/-! ### The obligations -/

/-- Settles O11: an accept needs the emitter idle and a transfer needs it busy; each kind's `↔` is its condition. -/
theorem everyEdgeIsOneKind : Obligations.EveryEdgeIsOneKind := by
  refine fun s p => ⟨fun ⟨haccept, htransfer⟩ => ?_, fun hr => ?_⟩
  · have ⟨hvalid, _⟩ := (transfers_eq_true_iff ..).1 htransfer
    simp [accepts_of_outValid hvalid] at haccept
  · exact ⟨edgeKind_eq_iff hr, (edgeKind_eq_iff hr).trans (and_iff_left rfl), edgeKind_eq_iff hr, edgeKind_eq_iff hr,
      edgeKind_eq_iff hr, (edgeKind_eq_iff hr).1⟩

/-- Settles O52: the hold edge leaves the emitter as it was, and the presented byte is a function of the emitter and the Packet. -/
theorem holdEdge : Obligations.HoldEdge := by
  intro s hr hrst hbusy hready
  have hvalid : ∀ {u : State}, u.busy = true → u.outValid false = true := fun h => (outValid_eq_true_iff ..).2 ⟨h, rfl⟩
  refine ⟨s.advance, step_of_hold hr (hrst ▸ hvalid hbusy) hready, rfl, hvalid hbusy, ?_, rfl⟩
  rw [outData_of_outValid (hvalid hbusy), outData_of_outValid (s := s.advance) (hvalid hbusy)]
  rfl

/-- Settles O53: an edge with no accept and no transfer is a hold edge while a frame is in flight, and an idle edge otherwise. -/
theorem idleEdge : Obligations.IdleEdge := by
  intro s hr hrst haccept htransfer
  rcases Bool.eq_false_or_eq_true s.busy with hbusy | hbusy
  · have hvalid : s.outValid s.portIn.rst = true := (outValid_eq_true_iff ..).2 ⟨hbusy, hrst⟩
    exact step_of_hold hr hvalid (by simpa [State.transfers, hvalid] using htransfer)
  · exact step_of_idle hr hrst hbusy haccept

end Sys2Proof.Machine
end

section
/-! The Packet's bytes, the checksum's value, and the frame byte by byte (41_frame_emit R101 to R104). -/

namespace Sys2Proof.Machine

/-- The checksum as a number: the exact sum of the payload bytes, modulo 256, then 255, then complemented (R103). -/
theorem checksum_toNat (p : Packet) :
    (checksum p).toNat = 255 - ((pktBytes p 15).map BitVec.toNat).sum % 256 % 255 := by
  rw [checksum, complementMod_toNat, sum8_toNat]

/-- Settles O12: `PktByte`'s table names a half of a motion field or a control byte at each offset. -/
theorem payloadByteTable : Obligations.PayloadByteTable := fun p =>
  ⟨highByte_toNat_mod p.base, lowByte_toNat p.base, highByte_toNat_mod p.shoulder, lowByte_toNat p.shoulder,
    highByte_toNat_mod p.elbow, lowByte_toNat p.elbow, highByte_toNat_mod p.wristAngle, lowByte_toNat p.wristAngle,
    highByte_toNat_mod p.wristRotation, lowByte_toNat p.wristRotation, highByte_toNat_mod p.gripper,
    lowByte_toNat p.gripper, rfl, rfl, rfl⟩

/-- Settles O15: the three consequences are arithmetic on the checksum's value, with the sum below 256. -/
theorem checksumFormula : Obligations.ChecksumFormula := by
  intro p s8 hs8
  have hvalue : (checksum p).toNat = 255 - s8 % 255 := by rw [hs8, checksum_toNat]
  have hlt : s8 < 256 := by rw [hs8]; exact Nat.mod_lt _ (by decide)
  refine ⟨hvalue, ?_, ?_, fun hle => ?_⟩
  · rw [ne_eq, ← BitVec.toNat_inj, hvalue, show (0 : Byte).toNat = 0 from rfl]
    omega
  · rw [← BitVec.toNat_inj, hvalue, show (0xFF : Byte).toNat = 255 from rfl]
    omega
  · rw [hvalue, Nat.mod_eq_of_lt (Nat.lt_succ_of_le hle)]

/-- The last frame byte is the checksum (R104). -/
theorem frame_getElem?_checksum (p : Packet) : (frame p)[16]? = some (checksum p) := rfl

/-- The fifteen frame bytes after the header are the payload bytes (R104). -/
theorem frame_drop_take (p : Packet) : ((frame p).drop 1).take 15 = pktBytes p 15 := by
  simp [frame]

/-- The frame byte at a payload offset, read with a default. -/
theorem frame_getD_payload (p : Packet) {k : Nat} (h1 : 1 ≤ k) (h15 : k ≤ 15) : (frame p).getD k 0 = pktByte p k := by
  rw [List.getD_eq_getElem?_getD, frame_getElem?_payload p h1 h15, Option.getD_some]

/-- Settles O16: the frame is the header, the payload bytes in order and the checksum by definition; offsets 13 to 15 are
`PktByte` there. -/
theorem frameAssembly : Obligations.FrameAssembly := fun p =>
  ⟨frame_length p, rfl, frame_getElem?_payload p (by decide) (by decide), frame_getElem?_payload p (by decide) (by decide),
    frame_getElem?_payload p (by decide) (by decide)⟩

end Sys2Proof.Machine
end

section
/-! EMIT at both levels (41_frame_emit R105, R108), and the emitter's byte and transfer edge (R109, R110). -/

namespace Sys2Proof.Machine

/-! ### The command -/

/-- At the transaction level EMIT with a Packet appends its frame (R105). -/
theorem execEmit_of_transaction {s : State} (hv : s.pktValid = true) (hl : s.level = .transaction) :
    exec .emit s = .next { s with out := s.out ++ frame s.pkt } := by
  simp [exec, execEmit, hv, hl, emitBytes_eq]

/-- At the cycle level EMIT with a Packet puts its frame in flight (R108). -/
theorem execEmit_of_cycle {s : State} (hv : s.pktValid = true) (hl : s.level = .cycle) :
    exec .emit s = .next s.startFrame := by
  simp [exec, execEmit, hv, hl]

/-- A word with `cmd_op = 0b11` is EMIT, whatever its payload (R76, R78). -/
theorem decode_of_op_emit {w : CmdWord} (h : CmdWord.op w = 0b11) : decode w = .emit := by
  rw [decode_of_op h, decode_ofParts_emit]

/-! ### The transfer edge -/

/-- A transfer before byte 16 keeps the frame in flight and moves on (R110). -/
theorem transferByte_of_not_last {s : State} (h : s.idx ≠ 16) :
    s.transferByte.busy = s.busy ∧ s.transferByte.idx = s.idx + 1 := by
  have hl : s.idx.toNat ≠ 16 := fun hidx => h (BitVec.eq_of_toNat_eq hidx)
  by_cases hp : 1 ≤ s.idx.toNat ∧ s.idx.toNat ≤ 15
  · simp [transferByte_payload hp.1 hp.2]
  · simp [transferByte_uncounted (s := s) (by omega)]

/-- An edge without reset while a frame is in flight and the sink ready is a transfer (R35). -/
theorem transfers_of_busy {s : State} {p : PortIn} (hrst : p.rst = false) (hb : s.busy = true) (ho : p.outReady = true) :
    s.transfers p = true :=
  (transfers_eq_true_iff ..).2 ⟨(outValid_eq_true_iff ..).2 ⟨hb, hrst⟩, ho⟩

/-- A transfer ends the frame exactly at byte 16 (R110). -/
theorem transferByte_busy_eq_false_iff {s : State} (hb : s.busy = true) : s.transferByte.busy = false ↔ s.idx = 16 := by
  by_cases h : s.idx = 16
  · exact iff_of_true (by rw [transferByte_last (by rw [h]; rfl)]) h
  · exact iff_of_false (by simp [transferByte_of_not_last h, hb]) h

/-- While a frame is in flight, an edge without reset clears `busy` exactly when it transfers byte 16 (R105). -/
theorem step_clears_busy_iff {s : State} (hr : s.hasReset = true) (hb : s.busy = true) (hrst : s.portIn.rst = false) :
    ∃ t, step s = .next t ∧ (t.busy = false ↔ s.portIn.outReady = true ∧ s.idx = 16) := by
  cases ho : s.portIn.outReady with
  | true =>
    refine ⟨_, step_of_transfers hr (transfers_of_busy hrst hb ho), ?_⟩
    simpa using transferByte_busy_eq_false_iff (s := s.advance) hb
  | false =>
    refine ⟨_, step_of_hold hr ((outValid_eq_true_iff ..).2 ⟨hb, hrst⟩) ho, ?_⟩
    simp [hb]

/-! ### The obligations -/

/-- Settles O17: the appended list is `Frame(pkt)`, a function of the Packet alone, whose bytes are known by offset. -/
theorem emittedFrameProperties : Obligations.EmittedFrameProperties := by
  intro s hv hl
  refine ⟨frame s.pkt, execEmit_of_transaction hv hl, frame_length s.pkt, rfl, fun i => ?_, ?_, fun s' hv' hl' hp => ?_⟩
  · rw [frame_getD_payload _ (by omega) (by omega), frame_getD_payload _ (by omega) (by omega), motionField_eq_pktBytes]
  · rw [List.getD_eq_getElem?_getD, frame_getElem?_checksum, Option.getD_some, frame_drop_take, checksum_toNat]
  · rw [← hp]
    exact execEmit_of_transaction hv' hl'

/-- Settles O31: the word is EMIT; its effect is the one of its level, and `busy` falls with byte 16. -/
theorem emitSendsFrame : Obligations.EmitSendsFrame := by
  intro w s hop
  have hd := decode_of_op_emit hop
  rw [hd]
  exact ⟨rfl, execEmit_of_transaction, execEmit_of_not_pktValid, fun hv hl => ⟨_, execEmit_of_cycle hv hl, rfl⟩,
    step_clears_busy_iff⟩

/-- Settles O32: at the cycle level EMIT starts the frame, and a started frame drives the output and blocks the command port. -/
theorem emitAcceptStartsFrame : Obligations.EmitAcceptStartsFrame := fun _ hl =>
  ⟨execEmit_of_not_pktValid, fun hv => ⟨execEmit_of_cycle hv hl, rfl, rfl⟩⟩

/-- Settles O50: the three forms of the presented byte, and `out_last` at offset 16. -/
theorem presentedByte : Obligations.PresentedByte := by
  refine fun s _ => ⟨fun h => ?header, frameByteAt_payload, fun h => ?checksum, fun hb => ?last⟩
  case header => exact frameByteAt_header (by rw [h]; rfl)
  case checksum =>
    rw [frameByteAt_last (by rw [h]; rfl), complementMod]
    exact (BitVec.and_allOnes).symm
  case last => simp [outLast_eq_true_iff, outValid_eq_true_iff, hb]

/-- Settles O51: the step is the transfer of the presented byte, which is counted, uncounted or last by its offset. -/
theorem transferEdge : Obligations.TransferEdge := by
  intro s hr hrst hb ho
  obtain ⟨hpkt, hvalid, hillegal, hnopkt, hout, -⟩ := transferByte_outside s.advance
  refine ⟨_, step_of_transfers hr (transfers_of_busy hrst hb ho), hout, fun h1 h15 => ?payload, fun h => ?uncounted,
    fun h => ?last, fun h => ?moves, hpkt, hvalid, hillegal, hnopkt⟩
  case payload =>
    rw [transferByte_payload (s := s.advance) h1 h15]
    exact BitVec.toNat_add ..
  case uncounted => rw [transferByte_uncounted (s := s.advance) h, advance_acc]
  case last => simp [transferByte_last (s := s.advance) (by rw [advance_idx, h]; rfl)]
  case moves =>
    obtain ⟨hbusy, hidx⟩ := transferByte_of_not_last (s := s.advance) h
    exact ⟨hbusy.trans hb, hidx⟩

end Sys2Proof.Machine
end

section
/-! A frame in flight over any edges without reset, and the refinement of the transaction level by the cycle level
(41_frame_emit R110, R111, R115). -/

namespace Sys2Proof.Machine

/-- The FFA `s` while it sends its Packet's frame: `n` bytes have been transferred, `k` edges have passed, and `ins` is what the
outside drives next (R38, R57). -/
def State.sending (s : State) (n k : Nat) (ins : List PortIn) : State :=
  { s with
    busy   := true
    idx    := BitVec.ofNat 5 n
    acc    := sum8 (pktBytes s.pkt (n - 1))
    out    := s.out ++ (frame s.pkt).take n
    inputs := ins
    edge   := s.edge + k }

theorem sending_idx_toNat (s : State) {n : Nat} (h : n ≤ 16) (k : Nat) (ins : List PortIn) :
    (s.sending n k ins).idx.toNat = n :=
  Nat.mod_eq_of_lt (Nat.lt_of_le_of_lt h (by decide))

@[simp] theorem sending_portIn (s : State) (n k : Nat) (p : PortIn) (ins : List PortIn) :
    (s.sending n k (p :: ins)).portIn = p := rfl

@[simp] theorem sending_advance (s : State) (n k : Nat) (p : PortIn) (ins : List PortIn) :
    (s.sending n k (p :: ins)).advance = s.sending n (k + 1) ins := rfl

/-- A started frame has no byte transferred. -/
theorem startFrame_eq_sending {s : State} {ins : List PortIn} (h : s.inputs = ins) : s.startFrame = s.sending 0 0 ins := by
  subst h
  simp [State.startFrame, State.sending]

/-- Before the checksum, a transfer takes the emitter to the next byte: the payload sum goes up by a payload byte and not by the
header (R110). -/
theorem sending_transferByte (s : State) {n : Nat} (h : n ≤ 15) (k : Nat) (ins : List PortIn) :
    (s.sending n k ins).transferByte = s.sending (n + 1) k ins := by
  have hidx := sending_idx_toNat s (Nat.le_succ_of_le h) k ins
  have hout : s.out ++ (frame s.pkt).take (n + 1) = (s.sending n k ins).out ++ [(s.sending n k ins).frameByteAt] := by
    have hnext := frame_take_next (s := s.sending n k ins) (by omega)
    rw [hidx] at hnext
    exact (congrArg (s.out ++ ·) hnext).trans (List.append_assoc ..).symm
  cases n with
  | zero =>
    rw [transferByte_uncounted (by omega), ← hout]
    rfl
  | succ m =>
    have hsum : sum8 (pktBytes s.pkt (m + 1)) = sum8 (pktBytes s.pkt m) + (s.sending (m + 1) k ins).frameByteAt := by
      rw [frameByteAt_payload (by omega) (by omega), hidx, pktBytes_succ, sum8_concat]
      rfl
    rw [transferByte_payload (by omega) (by omega), ← hout]
    simp [State.sending, hsum, BitVec.ofNat_add]

/-- Transferring the checksum completes the frame and idles the emitter (R110, R115). -/
theorem sending_transferByte_last (s : State) (k : Nat) (ins : List PortIn) :
    (s.sending 16 k ins).transferByte =
      { s with busy := false, idx := 0, acc := 0, out := s.out ++ frame s.pkt, inputs := ins, edge := s.edge + k } := by
  have hidx := sending_idx_toNat s le_rfl k ins
  have hframe : frame s.pkt = (frame s.pkt).take 16 ++ [(s.sending 16 k ins).frameByteAt] :=
    frame_take_last (s := s.sending 16 k ins) hidx rfl
  rw [transferByte_last hidx, hframe, ← List.append_assoc]
  rfl

/-- One edge without reset before the checksum: the frame moves on by a byte when the sink is ready, and holds otherwise. -/
theorem step_sending {s : State} {p : PortIn} (hr : s.hasReset = true) (hrst : p.rst = false) {n : Nat} (k : Nat)
    (ins : List PortIn) (h : n + readyEdges [p] ≤ 16) :
    step (s.sending n k (p :: ins)) = .next (s.sending (n + readyEdges [p]) (k + 1) ins) := by
  cases ho : p.outReady with
  | true =>
    have hone : readyEdges [p] = 1 := by simp [readyEdges_cons, ho]
    have hmove := step_of_transfers (s := s.sending n k (p :: ins)) hr (transfers_of_busy hrst rfl ho)
    rw [hmove, sending_advance, sending_transferByte s (by omega), hone]
  | false =>
    have hzero : readyEdges [p] = 0 := by simp [readyEdges_cons, ho]
    have hhold := step_of_hold (s := s.sending n k (p :: ins)) hr ((outValid_eq_true_iff ..).2 ⟨rfl, hrst⟩) ho
    rw [hhold, sending_advance, hzero]
    rfl

/-- Any edges without reset, as long as the checksum is not transferred: the frame moves on by one byte for each edge with the sink
ready, whatever the command port offers (R57, R110, R111, R146). -/
theorem run_sending {s : State} (hr : s.hasReset = true) (ins rest : List PortIn) (hins : NoReset ins) (n k : Nat)
    (h : n + readyEdges ins ≤ 16) :
    run ins.length (s.sending n k (ins ++ rest)) = .next (s.sending (n + readyEdges ins) (k + ins.length) rest) := by
  induction ins generalizing n k with
  | nil => rfl
  | cons p ps ih =>
    obtain ⟨hrst, hps⟩ := noReset_cons.1 hins
    have hsplit : readyEdges (p :: ps) = readyEdges [p] + readyEdges ps := List.countP_append (l₁ := [p])
    have hstep := step_sending hr hrst k (ps ++ rest) (n := n) (by omega)
    rw [List.length_cons, List.cons_append, run_succ _ hstep, ih hps _ _ (by omega), hsplit]
    congr 2 <;> omega

/-- An idle FFA with a Packet, at the cycle level, is offered EMIT at the coming edge, and `ins` after it (R108, R155). -/
structure State.OffersEmit (s : State) (accept : PortIn) (ins : List PortIn) : Prop where
  hasReset : s.hasReset = true
  idle     : s.Idle
  pktValid : s.pktValid = true
  level    : s.level = .cycle
  inputs   : s.inputs = accept :: ins
  rst      : accept.rst = false
  cmdValid : accept.cmdValid = true
  cmdOp    : accept.cmdOp = 0b11

/-- The edge that accepts EMIT leaves the frame in flight with no byte transferred (R108). -/
theorem step_of_offersEmit {s : State} {accept : PortIn} {ins : List PortIn} (h : s.OffersEmit accept ins) :
    step s = .next (s.sending 0 1 ins) := by
  have hp : s.portIn = accept := portIn_of_inputs h.inputs
  have haccept : s.accepts s.portIn = true := by
    rw [hp]
    exact (accepts_eq_true_iff ..).2 ⟨h.cmdValid, (cmdReady_eq_true_iff ..).2 ⟨h.idle.1, h.rst⟩⟩
  have hemit : decode s.portIn.word = .emit :=
    decode_of_op_emit (by rw [hp, portIn_word, cmdWord_op_ofParts, h.cmdOp])
  have htail : s.advance.inputs = ins := by rw [advance_inputs, h.inputs, List.tail_cons]
  rw [step_of_accepts h.hasReset haccept, hemit, execEmit_of_cycle (s := s.advance) h.pktValid h.level,
    startFrame_eq_sending htail]
  rfl

/-- From the accept edge of EMIT to the edge that transfers byte 16: the whole frame is in the history and the emitter is idle
again (R115). -/
theorem run_of_offersEmit {s : State} {accept last : PortIn} {ins rest : List PortIn}
    (h : s.OffersEmit accept (ins ++ last :: rest)) (hins : NoReset ins) (hready : readyEdges ins = 16)
    (hlast : last.rst = false) (ho : last.outReady = true) :
    run (ins.length + 2) s =
      .next { s with out := s.out ++ frame s.pkt, inputs := rest, edge := s.edge + (ins.length + 2) } := by
  obtain ⟨hb, hidx, hacc⟩ := h.idle
  have hmiddle := run_sending h.hasReset ins (last :: rest) hins 0 1 (by omega)
  rw [Nat.zero_add, hready] at hmiddle
  have hend := step_of_transfers (s := s.sending 16 (1 + ins.length) (last :: rest)) h.hasReset
    (transfers_of_busy hlast rfl ho)
  rw [sending_advance, sending_transferByte_last, ← hb, ← hidx, ← hacc] at hend
  rw [run_succ _ (step_of_offersEmit h), run_add _ 1 hmiddle, run_succ _ hend, run_zero]
  congr 3
  omega

/-- Settles O56: both levels append the frame and leave everything else of the FFA as it was. -/
theorem cycleLevelRefinesTransaction : Obligations.CycleLevelRefinesTransaction := by
  intro s t accept last ins rest hr hidle hv hl hin hrst hvalid hop hins hready hlast ho ht
  rw [execEmit_of_transaction (by exact hv) rfl, Host.Outcome.next.injEq] at ht
  subst ht
  have hemit : s.OffersEmit accept (ins ++ last :: rest) := ⟨hr, hidle, hv, hl, hin, hrst, hvalid, hop⟩
  refine ⟨rfl, ?_⟩
  rw [run_of_offersEmit hemit hins hready hlast ho, ← hl]

end Sys2Proof.Machine
end

section
/-! The error bits (60_exceptions R120 to R125): what sets them, what clears them, and that nothing reads them. -/

namespace Sys2Proof.Machine

/-! ### What a command and an edge do to the error bits -/

/-- From `s` to `t` either one cause is raised, which is then the whole of the change (R124), or both error bits keep their
values. -/
def State.RaisesOrKeeps (s t : State) : Prop :=
  (∃ c, t = s.raise c) ∨ (t.errIllegal = s.errIllegal ∧ t.errNopkt = s.errNopkt)

/-- Every command raises one cause and does nothing else, or keeps both error bits (R120, R121, R124). -/
theorem exec_raisesOrKeeps {i : Instr} {s t : State} (h : exec i s = .next t) : s.RaisesOrKeeps t := by
  rcases exec_cases h with ⟨-, rfl⟩ | ⟨p, -, rfl⟩ | ⟨v, -, -, rfl⟩ | ⟨-, -, -, rfl⟩ | ⟨-, -, -, rfl⟩ | ⟨-, -, rfl⟩
  · exact .inl ⟨.illegalOp, rfl⟩
  · exact .inr ⟨loadPacket_errIllegal s p, loadPacket_errNopkt s p⟩
  · exact .inr ⟨overrideExt_errIllegal s v, overrideExt_errNopkt s v⟩
  · exact .inr ⟨emitBytes_errIllegal s _, emitBytes_errNopkt s _⟩
  · exact .inr ⟨startFrame_errIllegal s, startFrame_errNopkt s⟩
  · exact .inl ⟨.noPacket, rfl⟩

/-- An edge is a reset edge, or it raises at most one cause past the edge itself (R113, R125). -/
theorem step_reset_or_raisesOrKeeps {s t : State} (h : step s = .next t) :
    (s.portIn.rst = true ∧ t = s.advance.resetEdge) ∨ (s.portIn.rst = false ∧ s.advance.RaisesOrKeeps t) := by
  rcases step_cases h with hreset | ⟨hr, -, -, -, he⟩ | ⟨hr, -, -, -, rfl⟩ | ⟨hr, -, -, -, rfl⟩ | ⟨hr, -, -, -, rfl⟩
  · exact .inl hreset
  · exact .inr ⟨hr, exec_raisesOrKeeps he⟩
  · obtain ⟨-, -, hillegal, hnopkt, -⟩ := transferByte_outside s.advance
    exact .inr ⟨hr, .inr ⟨hillegal, hnopkt⟩⟩
  · exact .inr ⟨hr, .inr ⟨rfl, rfl⟩⟩
  · exact .inr ⟨hr, .inr ⟨rfl, rfl⟩⟩

/-- Raising a cause clears neither bit, also when its bit is set already (R122). -/
theorem State.RaisesOrKeeps.sticky {s t : State} (h : s.RaisesOrKeeps t) :
    (s.errIllegal = true → t.errIllegal = true) ∧ (s.errNopkt = true → t.errNopkt = true) := by
  rcases h with ⟨c, rfl⟩ | ⟨hillegal, hnopkt⟩
  · simp +contextual
  · simp [hillegal, hnopkt]

/-- A bit that changes shows which cause was raised, and so the whole change (R124). -/
theorem State.RaisesOrKeeps.eq_raise {s t : State} (h : s.RaisesOrKeeps t) :
    (t.errIllegal ≠ s.errIllegal → t = s.raise .illegalOp) ∧ (t.errNopkt ≠ s.errNopkt → t = s.raise .noPacket) := by
  rcases h with ⟨c, rfl⟩ | ⟨hillegal, hnopkt⟩
  · cases c <;> simp
  · exact ⟨fun hne => absurd hillegal hne, fun hne => absurd hnopkt hne⟩

/-- The two bits never change together: the change of one is the raising of its cause, which keeps the other (R125). -/
theorem State.RaisesOrKeeps.keeps_one {s t : State} (h : s.RaisesOrKeeps t) :
    t.errIllegal = s.errIllegal ∨ t.errNopkt = s.errNopkt := by
  by_cases hillegal : t.errIllegal = s.errIllegal
  · exact .inl hillegal
  · exact .inr (by simp [h.eq_raise.1 hillegal])

/-! ### Nothing but the error bits depends on the error bits -/

/-- The same FFA with other error bits. -/
def State.withErrors (s : State) (a b : Bool) : State := { s with errIllegal := a, errNopkt := b }

@[simp] theorem edgeKind_withErrors (s : State) (a b : Bool) (p : PortIn) :
    (s.withErrors a b).edgeKind p = s.edgeKind p := rfl

/-- The step's inputs and the passing of the edge do not read the error bits (R123). -/
theorem step_withErrors (s : State) (a b : Bool) :
    step (s.withErrors a b) = clockEdge s.portIn (s.advance.withErrors a b) := rfl

/-- A command's effect apart from the error bits does not depend on them (R123). -/
theorem exec_withErrors {i : Instr} {s t : State} (a b : Bool) (h : exec i s = .next t) :
    ∃ a' b', exec i (s.withErrors a b) = .next (t.withErrors a' b') := by
  rcases exec_cases h with ⟨rfl, rfl⟩ | ⟨p, rfl, rfl⟩ | ⟨v, rfl, hv, rfl⟩ | ⟨rfl, hv, hl, rfl⟩ | ⟨rfl, hv, hl, rfl⟩ |
    ⟨rfl | ⟨v, rfl⟩, hv, rfl⟩
  · exact ⟨true, b, exec_illegal _⟩
  · exact ⟨a, b, exec_load p _⟩
  · exact ⟨a, b, execSetExt_of_pktValid (s := s.withErrors a b) hv v⟩
  · rw [emitBytes_eq]
    exact ⟨a, b, execEmit_of_transaction (s := s.withErrors a b) hv hl⟩
  · exact ⟨a, b, execEmit_of_cycle (s := s.withErrors a b) hv hl⟩
  · exact ⟨a, true, execEmit_of_not_pktValid (s := s.withErrors a b) hv⟩
  · exact ⟨a, true, execSetExt_of_not_pktValid (s := s.withErrors a b) hv v⟩

/-- A transfer neither reads nor writes the error bits (R110, R123). -/
theorem transferByte_withErrors (s : State) (a b : Bool) :
    (s.withErrors a b).transferByte = s.transferByte.withErrors a b := by
  by_cases hlast : s.idx.toNat = 16
  · rw [transferByte_last hlast, transferByte_last (s := s.withErrors a b) hlast]
    rfl
  by_cases hpayload : 1 ≤ s.idx.toNat ∧ s.idx.toNat ≤ 15
  · obtain ⟨h1, h15⟩ := hpayload
    rw [transferByte_payload h1 h15, transferByte_payload (s := s.withErrors a b) h1 h15]
    rfl
  · have huncounted : ¬(1 ≤ s.idx.toNat ∧ s.idx.toNat ≤ 16) := by omega
    rw [transferByte_uncounted huncounted, transferByte_uncounted (s := s.withErrors a b) huncounted]
    rfl

/-- An edge of any kind does the same with other error bits, but for the bits themselves (R113, R123). -/
theorem clockEdge_withErrors {p : PortIn} {s t : State} (a b : Bool) (h : clockEdge p s = .next t) :
    ∃ a' b', clockEdge p (s.withErrors a b) = .next (t.withErrors a' b') := by
  rw [clockEdge] at h ⊢
  rw [edgeKind_withErrors]
  cases hk : s.edgeKind p with
  | reset =>
    simp only [hk, Host.Outcome.next.injEq] at h
    exact ⟨false, false, h ▸ rfl⟩
  | beforeReset => simp [hk] at h
  | accept w =>
    simp only [hk] at h
    exact exec_withErrors a b h
  | transfer =>
    simp only [hk, Host.Outcome.next.injEq] at h
    exact ⟨a, b, h ▸ congrArg _ (transferByte_withErrors s a b)⟩
  | hold | idle =>
    simp only [hk, Host.Outcome.next.injEq] at h
    exact ⟨a, b, h ▸ rfl⟩

/-! ### The ports and the priority of reset -/

/-- `status[3]`, the top bit, is `err_nopkt` (R30). -/
theorem status_getLsbD_three (s : State) : s.status.getLsbD 3 = s.errNopkt := by
  simp only [State.status, BitVec.getLsbD_append, BitVec.getLsbD_ofBool]
  simp

/-- Reset comes before every command and transfer, and needs no reset before it (R125, R140, R141). -/
theorem edgeKind_of_rst (s : State) {p : PortIn} (h : p.rst = true) : s.edgeKind p = .reset := if_pos h

/-! ### The obligations -/

/-- Settles O37: an edge without reset raises or keeps, and neither clears a bit; a reset edge clears both. -/
theorem errorBitsAreSticky : Obligations.ErrorBitsAreSticky := by
  refine ⟨fun s t h hr => ?edge, fun i s t h => (exec_raisesOrKeeps h).sticky, fun s t h hr => ?reset⟩
  case edge =>
    rcases step_reset_or_raisesOrKeeps h with ⟨hr', -⟩ | ⟨-, herr⟩
    · simp [hr] at hr'
    · exact herr.sticky
  case reset =>
    rcases step_reset_or_raisesOrKeeps h with ⟨-, rfl⟩ | ⟨hr', -⟩
    · exact ⟨resetEdge_errIllegal _, resetEdge_errNopkt _⟩
    · simp [hr] at hr'

/-- Settles O38: the edge is of the same kind with other error bits, and each kind's effect commutes with changing them. -/
theorem errorsDoNotBlock : Obligations.ErrorsDoNotBlock := fun s _ a b h =>
  have ⟨a', b', hedge⟩ := clockEdge_withErrors a b h
  ⟨a', b', (step_withErrors s a b).trans hedge⟩

/-- Settles O39: a command that changes a bit raises that bit's cause, and raising a cause sets its bit alone. -/
theorem errorsAreAllOrNothing : Obligations.ErrorsAreAllOrNothing := fun _ _ _ h => (exec_raisesOrKeeps h).eq_raise

/-- Settles O40: each opcode's word decodes to its command, whose effect is known; an edge changes one error bit at most, and
the edge kind asks for reset first. -/
theorem errorPriority : Obligations.ErrorPriority := by
  refine ⟨fun w s hop => ?illegal, fun w s hop hv => ?noPacket, fun w s hop => ?load, fun s t h => ?single,
    fun s _ => edgeKind_of_rst s⟩
  case illegal =>
    rw [decode_of_op hop, decode_ofParts_illegal]
    exact exec_illegal s
  case noPacket =>
    rcases hop with hop | hop
    · rw [decode_of_op hop, decode_ofParts_setExt]
      exact execSetExt_of_not_pktValid hv _
    · rw [decode_of_op_emit hop]
      exact execEmit_of_not_pktValid hv
  case load =>
    rw [decode_of_op hop, decode_ofParts_load]
    exact ⟨_, exec_load _ s, loadPacket_errIllegal s _, loadPacket_errNopkt s _⟩
  case single =>
    rintro ⟨hillegal, hillegal', hnopkt, hnopkt'⟩
    rcases step_reset_or_raisesOrKeeps h with ⟨-, rfl⟩ | ⟨-, herr⟩
    · simp at hillegal'
    · rcases herr.keeps_one with hkept | hkept
      · simp [hillegal, hillegal'] at hkept
      · simp [hnopkt, hnopkt'] at hkept

/-- Settles O33: without a Packet both commands raise NoPacket, whose bit is `status[3]`. -/
theorem noPacketRaised : Obligations.NoPacketRaised := fun _ hv =>
  ⟨execSetExt_of_not_pktValid hv, execEmit_of_not_pktValid hv, status_getLsbD_three _, rfl⟩

end Sys2Proof.Machine
end

section
/-! Reset edges (70_reset_and_hazards R140, R142, R143), the command port outside the accept edge (R146), Packets that share a
checksum (R149), and a sink that is never ready (R154). -/

namespace Sys2Proof.Machine

/-! ### When no command is accepted -/

theorem accepts_of_rst {s : State} {p : PortIn} (h : p.rst = true) : s.accepts p = false := by
  simp [State.accepts, State.cmdReady, h]

theorem transfers_of_rst {s : State} {p : PortIn} (h : p.rst = true) : s.transfers p = false := by
  simp [State.transfers, State.outValid, h]

/-- While a frame is in flight no command is accepted, whatever the ports carry (R34, R146). -/
theorem accepts_of_busy {s : State} (h : s.busy = true) (p : PortIn) : s.accepts p = false := by
  simp [State.accepts, State.cmdReady, h]

theorem accepts_of_not_cmdValid {s : State} {p : PortIn} (h : p.cmdValid = false) : s.accepts p = false := by
  simp [State.accepts, h]

/-- A command offered to an idle FFA at an edge without reset is accepted (R34). -/
theorem accepts_of_idle {s : State} {p : PortIn} (hb : s.busy = false) (hrst : p.rst = false) (hc : p.cmdValid = true) :
    s.accepts p = true :=
  (accepts_eq_true_iff ..).2 ⟨hc, (cmdReady_eq_true_iff ..).2 ⟨hb, hrst⟩⟩

/-! ### The command port at an edge that accepts nothing -/

/-- Two port values that differ in the command port only and are both not accepted make edges of the same kind (R113). -/
theorem edgeKind_eq_of_not_accepts {s : State} {p q : PortIn} (hrst : q.rst = p.rst) (hready : q.outReady = p.outReady)
    (hp : s.accepts p = false) (hq : s.accepts q = false) : s.edgeKind q = s.edgeKind p := by
  simp [State.edgeKind, State.transfers, hrst, hready, hp, hq]

/-- An edge reads its port values through the kind of the edge only. -/
theorem clockEdge_eq_of_edgeKind {s : State} {p q : PortIn} (h : s.edgeKind q = s.edgeKind p) :
    clockEdge q s = clockEdge p s := by
  rw [clockEdge, clockEdge, h]

/-- At an edge that accepts no command, the step does not depend on the command port (R146). -/
theorem step_eq_of_not_accepts {s : State} {p q : PortIn} (rest : List PortIn) (hrst : q.rst = p.rst)
    (hready : q.outReady = p.outReady) (hp : s.accepts p = false) (hq : s.accepts q = false) :
    step { s with inputs := q :: rest } = step { s with inputs := p :: rest } :=
  clockEdge_eq_of_edgeKind (s := { s.advance with inputs := rest }) (edgeKind_eq_of_not_accepts hrst hready hp hq)

/-! ### The reset edge -/

/-- A reset edge takes every state, with or without a reset before it, to the reset values (R140, R141). -/
theorem step_of_rst {s : State} (h : s.portIn.rst = true) : step s = .next s.advance.resetEdge := by
  rw [step, clockEdge, edgeKind_of_rst _ h]

/-- The passing of the edge and the reset do not touch the same fields. -/
theorem resetEdge_advance (s : State) : s.advance.resetEdge = s.resetEdge.advance := rfl

/-- A reset edge completes reset: one more would change nothing (R142). -/
theorem afterReset_of_rst {s t : State} (h : s.portIn.rst = true) (ht : step s = .next t) : t.AfterReset := by
  rw [step_of_rst h, Host.Outcome.next.injEq] at ht
  subst ht
  rfl

/-- A reset edge after reset is only the passing of an edge (R142). -/
theorem step_of_rst_afterReset {s : State} (hs : s.AfterReset) (h : s.portIn.rst = true) : step s = .next s.advance := by
  rw [step_of_rst h, resetEdge_advance, ← hs]

/-! ### The frame in flight under the invariants -/

/-- While a frame is in flight the history ends in the frame's bytes before `idx`, and the frame is not complete (R38, R57). -/
theorem State.Good.out_of_busy {s : State} (h : s.Good) (hb : s.busy = true) :
    ∃ pre, s.out = pre ++ (frame s.pkt).take s.idx.toNat ∧ s.idx.toNat < 17 := by
  obtain ⟨⟨-, -, hidx, -⟩, ⟨ps, hout⟩, -⟩ := h
  exact ⟨ps.flatMap frame, by rw [hout, if_pos hb], Nat.lt_succ_of_le hidx⟩

/-! ### Payload sums with the same checksum -/

/-- Reduction modulo 255 identifies 0 and 255 and no other two bytes (R103, R149). -/
theorem complementMod_eq_iff (a b : Byte) :
    complementMod a = complementMod b ↔ a = b ∨ (a ∈ [0x00, 0xFF] ∧ b ∈ [0x00, 0xFF]) := by
  have ha : a.toNat < 256 := a.isLt
  have hb : b.toNat < 256 := b.isLt
  simp only [List.mem_cons, List.not_mem_nil, or_false, ← BitVec.toNat_inj, complementMod_toNat,
    show (0x00 : Byte).toNat = 0 from rfl, show (0xFF : Byte).toNat = 255 from rfl]
  omega

theorem complementMod_eq_allOnes {a : Byte} (h : a = 0x00 ∨ a = 0xFF) : complementMod a = 0xFF := by
  rcases h with rfl | rfl <;> rfl

/-! ### A sink that is not ready -/

theorem readyEdges_cons_eq_zero {p : PortIn} {ps : List PortIn} :
    readyEdges (p :: ps) = 0 ↔ p.outReady = false ∧ readyEdges ps = 0 := by
  rw [readyEdges_cons]
  cases p.outReady <;> simp

/-! ### The obligations -/

/-- Settles O3: the reset edge leaves an after-reset state, where a further one only passes, and where the FFA is idle. -/
theorem oneResetEdgeSuffices : Obligations.OneResetEdgeSuffices := by
  intro s t hs ht
  have hreset : t.AfterReset := afterReset_of_rst hs ht
  refine ⟨step_of_rst_afterReset hreset, fun hrst hc => ?_⟩
  have hbusy : t.busy = false := by rw [hreset, resetEdge_busy]
  have hhas : t.hasReset = true := by rw [hreset, resetEdge_hasReset]
  exact step_of_accepts hhas (accepts_of_idle hbusy hrst hc)

/-- Settles O6: the invariants give the bytes sent so far, and the reset edge leaves no Packet for EMIT. -/
theorem resetTruncatesFrame : Obligations.ResetTruncatesFrame := fun _ hgood hb hrst =>
  ⟨hgood.out_of_busy hb, _, step_of_rst hrst, rfl, rfl, rfl, execEmit_of_not_pktValid rfl⟩

/-- Settles O19: the checksum is `complementMod` of the payload sum, which identifies 0x00 and 0xFF only. -/
theorem checksumBlindSpots : Obligations.ChecksumBlindSpots := fun _ _ =>
  ⟨congrArg complementMod, complementMod_eq_iff _ _, complementMod_eq_allOnes⟩

/-- Settles O58, by induction on the edges: each is a hold edge. -/
theorem unreadySinkHangs : Obligations.UnreadySinkHangs := by
  intro s ins rest hr hb hin hins hready
  induction ins generalizing s with
  | nil =>
    obtain rfl : s.inputs = rest := hin
    rfl
  | cons p ps ih =>
    obtain ⟨hrst, hps⟩ := noReset_cons.1 hins
    obtain ⟨ho, hready'⟩ := readyEdges_cons_eq_zero.1 hready
    have hp : s.portIn = p := portIn_of_inputs hin
    have hhold : step s = .next s.advance :=
      step_of_hold hr ((outValid_eq_true_iff ..).2 ⟨hb, hp ▸ hrst⟩) (hp ▸ ho)
    have htail : s.advance.inputs = ps ++ rest := by rw [advance_inputs, hin, List.cons_append, List.tail_cons]
    rw [List.length_cons, run_succ _ hhold, ih s.advance hr hb htail hps hready', advance_edge, Nat.add_assoc,
      Nat.add_comm 1]
    rfl

/-- Settles O2: reset comes first at an edge, and `rst` holds the ready and valid outputs at 0. -/
theorem resetEdgeWins : Obligations.ResetEdgeWins := fun _ h =>
  ⟨step_of_rst h, Bool.and_false _, Bool.and_false _, accepts_of_rst h, transfers_of_rst h⟩

/-- Settles O54: while busy, and with `cmd_valid = 0`, neither command port is accepted; an accepted one is run. -/
theorem commandPortSampledAtAcceptOnly : Obligations.CommandPortSampledAtAcceptOnly := by
  refine fun s p rest valid op pl => ⟨fun hb => ?busy, fun hc => ?notValid, fun hr ha => ?accept⟩
  case busy =>
    exact ⟨accepts_of_busy hb p, step_eq_of_not_accepts rest rfl rfl (accepts_of_busy hb _) (accepts_of_busy hb _)⟩
  case notValid =>
    exact step_eq_of_not_accepts rest rfl rfl (accepts_of_not_cmdValid hc) (accepts_of_not_cmdValid hc)
  case accept => exact step_of_accepts (s := { s with inputs := p :: rest }) hr ha

end Sys2Proof.Machine
end

section
/-! Decoding what the assembler writes, and writing again what was decoded (30_encoding R74 to R78, R83). -/

namespace Sys2Proof

/-- Reading a control byte back from the payload it is written to (R78). -/
@[simp] theorem extractLsb'_setWidth_byte (v : Byte) : (v.setWidth 120 : Payload).extractLsb' 0 8 = v := by
  apply BitVec.eq_of_getLsbD_eq
  intro i hi
  have h120 : i < 120 := by omega
  simp [hi, h120]

/-- Settles O20: a written word is its opcode's bits over the command's payload, and each command reads back its own operand. -/
theorem decodeEncode : Obligations.DecodeEncode := by
  intro i
  cases i with
  | illegal => exact decode_ofParts_illegal _
  | load p => exact (decode_ofParts_load _).trans (congrArg _ (packet_ofPayload_toPayload p))
  | setExt v => exact (decode_ofParts_setExt _).trans (congrArg _ (extractLsb'_setWidth_byte v))
  | emit => exact decode_ofParts_emit _

/-- A word is the written form of its command exactly when its payload is the one the assembler writes: `cmd_op` always is
(R76, R83). -/
theorem encode_decode_eq_iff (w : CmdWord) : encode (decode w) = w ↔ (decode w).payload = CmdWord.payload w := by
  have hw : CmdWord.ofParts (decode w).opcode.bits (CmdWord.payload w) = w := by
    rw [← op_eq_decode_opcode_bits, cmdWord_ofParts_parts]
  refine ⟨fun h => ?_, fun h => ?_⟩
  · exact (cmdWord_payload_ofParts _ _).symm.trans (congrArg CmdWord.payload h)
  · rw [encode, h, hw]

/-- Settles O23: the two payloads are compared opcode by opcode. -/
theorem encodeDecode : Obligations.EncodeDecode := by
  intro w
  have hcases : ∀ op : BitVec 2, op = 0b00 ∨ op = 0b01 ∨ op = 0b10 ∨ op = 0b11 := by decide
  rw [encode_decode_eq_iff]
  rcases hcases (CmdWord.op w) with hop | hop | hop | hop
  · rw [decode_of_op hop, decode_ofParts_illegal]
    simp [Instr.payload, hop, eq_comm]
  · rw [decode_of_op hop, decode_ofParts_load]
    simp [Instr.payload, hop]
  · rw [decode_of_op hop, decode_ofParts_setExt]
    simp [Instr.payload, hop, eq_comm]
  · rw [decode_of_op hop, decode_ofParts_emit]
    simp [Instr.payload, hop, eq_comm]

end Sys2Proof
end

section
/-! What a command does to the packet register, the emitter, the history and the error bits, each said once (40_packet_ops;
41_frame_emit R105, R108). -/

namespace Sys2Proof.Machine

/-- A command leaves the emitter as it was, or it is an EMIT with a Packet at the cycle level and starts a frame (R94, R108). -/
theorem exec_emitter {i : Instr} {s t : State} (h : exec i s = .next t) :
    (t.busy = s.busy ∧ t.idx = s.idx ∧ t.acc = s.acc) ∨
    (i = .emit ∧ s.pktValid = true ∧ s.level = .cycle ∧ t = s.startFrame) := by
  rcases exec_cases h with ⟨-, rfl⟩ | ⟨p, -, rfl⟩ | ⟨v, -, -, rfl⟩ | ⟨-, -, -, rfl⟩ | hstart | ⟨-, -, rfl⟩
  · simp
  · simp
  · simp
  · simp
  · exact .inr hstart
  · simp

/-- A command leaves the history as it was, or it is an EMIT with a Packet at the transaction level and appends its frame (R105). -/
theorem exec_history {i : Instr} {s t : State} (h : exec i s = .next t) :
    t.out = s.out ∨
    (i = .emit ∧ s.pktValid = true ∧ s.level = .transaction ∧ t = s.emitBytes (frame s.pkt)) := by
  rcases exec_cases h with ⟨-, rfl⟩ | ⟨p, -, rfl⟩ | ⟨v, -, -, rfl⟩ | hemit | ⟨-, -, -, rfl⟩ | ⟨-, -, rfl⟩
  · simp
  · simp
  · simp
  · exact .inr hemit
  · simp
  · simp

/-- A command leaves the packet register as it was, or it is a LOAD, or a SET_EXT with a Packet (R22). -/
theorem exec_pkt {i : Instr} {s t : State} (h : exec i s = .next t) :
    t.pkt = s.pkt ∨ i = .load t.pkt ∨
    (∃ v, i = .setExt v ∧ s.pktValid = true ∧ t.pkt = { s.pkt with ext := v }) := by
  rcases exec_cases h with ⟨-, rfl⟩ | ⟨p, rfl, rfl⟩ | ⟨v, rfl, hv, rfl⟩ | ⟨-, -, -, rfl⟩ | ⟨-, -, -, rfl⟩ | ⟨-, -, rfl⟩
  · simp
  · simp
  · exact .inr (.inr ⟨v, rfl, hv, rfl⟩)
  · simp
  · simp
  · simp

end Sys2Proof.Machine
end

section
/-! The invariants of every run: the emitter's (10_state R38), the framing of the history (20_memory R57), and its emptiness
without a Packet (R24). -/

namespace Sys2Proof.Machine

/-! ### The emitter's invariants -/

/-- A state with no frame in flight meets R38's invariants when its counters are clear. -/
theorem inv_of_idle {s : State} (h : s.Idle) : s.Inv := by
  obtain ⟨hb, hidx, hacc⟩ := h
  exact ⟨fun _ => ⟨hidx, hacc⟩, by simp [hb], by simp [hidx], by simp [hb]⟩

/-- A state with a frame in flight meets R38's invariants when it has a Packet and its counters are the frame's. -/
theorem inv_of_busy {s : State} (hb : s.busy = true) (hv : s.pktValid = true) (hidx : s.idx.toNat ≤ 16)
    (hacc : s.acc = sum8 (pktBytes s.pkt (s.idx.toNat - 1))) : s.Inv :=
  ⟨by simp [hb], fun _ => hv, hidx, fun _ => hacc⟩

theorem State.Inv.idle {s : State} (h : s.Inv) (hb : s.busy = false) : s.Idle := ⟨hb, h.1 hb⟩

theorem inv_resetEdge (s : State) : s.resetEdge.Inv := inv_of_idle ⟨rfl, rfl, rfl⟩

/-- A command accepted by an idle FFA leaves it idle or starts a frame of its Packet (R108). -/
theorem exec_inv {i : Instr} {s t : State} (hs : s.Idle) (h : exec i s = .next t) : t.Inv := by
  rcases exec_emitter h with ⟨hb, hidx, hacc⟩ | ⟨-, hv, -, rfl⟩
  · obtain ⟨hb0, hidx0, hacc0⟩ := hs
    exact inv_of_idle ⟨hb.trans hb0, hidx.trans hidx0, hacc.trans hacc0⟩
  · exact inv_of_busy rfl hv (by simp) rfl

/-- A transfer keeps R38's invariants: the header is not summed, a payload byte is, and the checksum idles the emitter (R110). -/
theorem transferByte_inv {s : State} (h : s.Inv) (hb : s.busy = true) : s.transferByte.Inv := by
  obtain ⟨-, hloaded, hidx, hsum⟩ := h
  have hv := hloaded hb
  have hacc := hsum hb
  rcases Nat.lt_or_eq_of_le hidx with hlt | hlast
  · have hnext := idx_succ (i := s.idx) (by omega)
    rcases Nat.eq_zero_or_pos s.idx.toNat with h0 | hpos
    · rw [transferByte_uncounted (by omega)]
      refine inv_of_busy hb hv (by simp only [hnext]; omega) ?_
      simpa only [hnext, h0] using hacc
    · rw [transferByte_payload hpos (by omega)]
      refine inv_of_busy hb hv (by simp only [hnext]; omega) ?_
      obtain ⟨n, hn⟩ := Nat.exists_eq_add_of_le' hpos
      simp only [hnext, frameByteAt_payload hpos (by omega), hacc, hn, Nat.add_sub_cancel, pktBytes_succ, sum8_concat]
  · rw [transferByte_last hlast]
    exact inv_of_idle ⟨rfl, rfl, rfl⟩

/-- Every edge keeps R38's invariants. -/
theorem step_inv {s t : State} (hs : s.Inv) (h : step s = .next t) : t.Inv := by
  rcases step_cases h with ⟨-, rfl⟩ | ⟨-, -, hb, -, he⟩ | ⟨-, -, hb, -, rfl⟩ | ⟨-, -, -, -, rfl⟩ | ⟨-, -, -, -, rfl⟩
  · exact inv_resetEdge _
  · exact exec_inv (s := s.advance) (hs.idle hb) he
  · exact transferByte_inv (s := s.advance) hs hb
  · exact hs
  · exact hs

/-- While a frame is in flight an edge without reset keeps the Packet: no command is accepted (R38, R146). -/
theorem step_pkt_of_busy {s t : State} (hb : s.busy = true) (hrst : s.portIn.rst = false) (h : step s = .next t) :
    t.pkt = s.pkt := by
  rcases step_cases h with ⟨hr, -⟩ | ⟨-, -, hidle, -⟩ | ⟨-, -, -, -, rfl⟩ | ⟨-, -, -, -, rfl⟩ | ⟨-, -, -, -, rfl⟩
  · simp [hrst] at hr
  · simp [hb] at hidle
  · exact (transferByte_outside s.advance).1
  · rfl
  · rfl

/-- Settles O45: each kind of edge keeps the invariants, and no kind writes the Packet while a frame is in flight. -/
theorem stepKeepsEmitterInvariant : Obligations.StepKeepsEmitterInvariant := fun _ _ hs h =>
  ⟨step_inv hs h, fun hb hrst => step_pkt_of_busy hb hrst h⟩

/-! ### The framing of the history -/

/-- At offset 0 no byte of a frame in flight has been transferred, so whole frames are all of the history. -/
theorem outFramed_of_idx_zero {s : State} {ps : List Packet} (hidx : s.idx = 0) (hout : s.out = ps.flatMap frame) :
    s.OutFramed :=
  ⟨ps, by simp [hout, hidx]⟩

/-- One more whole frame. -/
theorem flatMap_frame_concat (ps : List Packet) (p : Packet) :
    (ps ++ [p]).flatMap frame = ps.flatMap frame ++ frame p := by
  simp

/-- A command accepted by an idle FFA appends a whole frame or nothing (R105, R108). -/
theorem exec_outFramed {i : Instr} {s t : State} (hidle : s.Idle) (hs : s.OutFramed) (h : exec i s = .next t) :
    t.OutFramed := by
  obtain ⟨hb, hidx, -⟩ := hidle
  obtain ⟨ps, hout⟩ := hs
  simp only [hb, Bool.false_eq_true, if_false, List.append_nil] at hout
  rcases exec_history h with hkept | ⟨-, -, -, rfl⟩
  · refine outFramed_of_idx_zero ?_ (hkept.trans hout)
    rcases exec_emitter h with ⟨-, hidx', -⟩ | ⟨-, -, -, rfl⟩
    · rw [hidx', hidx]
    · rfl
  · refine outFramed_of_idx_zero (ps := ps ++ [s.pkt]) (by rw [emitBytes_idx, hidx]) ?_
    rw [emitBytes_out, hout, flatMap_frame_concat]

/-- A transfer appends the frame's byte at `idx`; byte 16 makes the frame whole (R110, R115). -/
theorem transferByte_outFramed {s : State} (hinv : s.Inv) (hb : s.busy = true) (hs : s.OutFramed) :
    s.transferByte.OutFramed := by
  obtain ⟨-, -, hidx, hacc⟩ := hinv
  obtain ⟨ps, hout⟩ := hs
  rw [if_pos hb] at hout
  obtain ⟨hpkt, -, -, -, hsent, -⟩ := transferByte_outside s
  rcases Nat.lt_or_eq_of_le hidx with hlt | hlast
  · have hne : s.idx ≠ 16 := fun h => by simp [h] at hlt
    obtain ⟨hb', hidx'⟩ := transferByte_of_not_last hne
    refine ⟨ps, ?_⟩
    rw [if_pos (hb'.trans hb), hsent, hout, hpkt, hidx', idx_succ (by omega), frame_take_next (by omega),
      List.append_assoc]
  · have hframe := frame_take_last hlast (by simpa [hlast] using hacc hb)
    refine outFramed_of_idx_zero (ps := ps ++ [s.pkt]) (by rw [transferByte_last hlast]) ?_
    rw [hsent, hout, hlast, List.append_assoc, ← hframe, flatMap_frame_concat]

/-- Every edge keeps the framing of the history (R57). -/
theorem step_outFramed {s t : State} (hinv : s.Inv) (hs : s.OutFramed) (h : step s = .next t) : t.OutFramed := by
  rcases step_cases h with ⟨-, rfl⟩ | ⟨-, -, hb, -, he⟩ | ⟨-, -, hb, -, rfl⟩ | ⟨-, -, -, -, rfl⟩ | ⟨-, -, -, -, rfl⟩
  · exact outFramed_of_idx_zero (ps := []) rfl rfl
  · exact exec_outFramed (s := s.advance) (hinv.idle hb) hs he
  · exact transferByte_outFramed (s := s.advance) hinv hb hs
  · exact hs
  · exact hs

/-! ### Silence without a Packet -/

/-- A command that leaves no Packet was given none, and so neither appended a byte nor started a frame (R24, R105). -/
theorem exec_silentUnloaded {i : Instr} {s t : State} (hs : s.SilentUnloaded) (h : exec i s = .next t) :
    t.SilentUnloaded := by
  intro hv
  have hv' : s.pktValid = false := by
    rcases exec_pktValid h with ⟨-, ht⟩ | ⟨-, ht⟩
    · simp [hv] at ht
    · rw [← ht, hv]
  have hout : t.out = s.out := (exec_history h).resolve_right fun ⟨_, hloaded, _⟩ => by simp [hv'] at hloaded
  have hbusy : t.busy = s.busy := by
    rcases exec_emitter h with ⟨hb, -⟩ | ⟨-, hloaded, -⟩
    · exact hb
    · simp [hv'] at hloaded
  rw [hout, hbusy]
  exact hs hv'

/-- Every edge keeps the history empty and the emitter idle while there is no Packet (R24). -/
theorem step_silentUnloaded {s t : State} (hinv : s.Inv) (hs : s.SilentUnloaded) (h : step s = .next t) :
    t.SilentUnloaded := by
  rcases step_cases h with ⟨-, rfl⟩ | ⟨-, -, -, -, he⟩ | ⟨-, -, hb, -, rfl⟩ | ⟨-, -, -, -, rfl⟩ | ⟨-, -, -, -, rfl⟩
  · exact fun _ => ⟨rfl, rfl⟩
  · exact exec_silentUnloaded (s := s.advance) hs he
  · obtain ⟨-, hloaded, -⟩ := hinv
    exact fun hv => by simp [(transferByte_outside s.advance).2.1, hloaded hb] at hv
  · exact hs
  · exact hs

/-! ### The whole invariant -/

/-- Settles O46: the three parts of the invariant, each kept by every edge. -/
theorem stepKeepsFramedHistory : Obligations.StepKeepsFramedHistory := fun _ _ ⟨hinv, hout, hsilent⟩ h =>
  ⟨step_inv hinv h, step_outFramed hinv hout h, step_silentUnloaded hinv hsilent h⟩

theorem good_resetEdge (s : State) : s.resetEdge.Good :=
  ⟨inv_resetEdge s, outFramed_of_idx_zero (ps := []) rfl rfl, fun _ => ⟨rfl, rfl⟩⟩

/-- Settles O44: an after-reset state is its own reset. -/
theorem goodAfterReset : Obligations.GoodAfterReset := fun s h => h ▸ good_resetEdge s

/-! ### Along a run -/

/-- A run of at least one edge is its first edge and the run from there. -/
theorem run_succ_inv {s t : State} {k : Nat} (h : run (k + 1) s = .next t) :
    ∃ u, step s = .next u ∧ run k u = .next t := by
  cases hs : step s with
  | next u => exact ⟨u, rfl, run_succ k hs ▸ h⟩
  | fault r => cases r
  | refused r =>
    have hc : Host.Core.step core s = .refused r := hs
    simp [run, Host.Core.run, hc] at h

/-- What every edge keeps, every run keeps. -/
theorem run_keeps {P : State → Prop} (hstep : ∀ s t, P s → step s = .next t → P t) {s t : State} {k : Nat} (hs : P s)
    (h : run k s = .next t) : P t := by
  induction k generalizing s with
  | zero =>
    obtain rfl : s = t := by simpa using h
    exact hs
  | succ k ih =>
    obtain ⟨u, hu, hrun⟩ := run_succ_inv h
    exact ih (hstep s u hs hu) hrun

/-- Settles O47: the invariant holds at reset and every edge keeps it. -/
theorem reachableStatesAreGood : Obligations.ReachableStatesAreGood := fun s _ _ hs h =>
  run_keeps stepKeepsFramedHistory (goodAfterReset s hs) h

end Sys2Proof.Machine
end

section
/-! The writers of the packet register and of the history (10_state R22; 20_memory R58), the frame of each command, and that
no edge after a reset is refused. -/

namespace Sys2Proof.Machine

/-! ### The command on the port -/

@[simp] theorem portIn_word_op (p : PortIn) : CmdWord.op p.word = p.cmdOp := cmdWord_op_ofParts _ _

@[simp] theorem portIn_word_payload (p : PortIn) : CmdWord.payload p.word = p.cmdPayload := cmdWord_payload_ofParts _ _

/-- A word decodes to a SET_EXT exactly by its opcode, and the SET_EXT carries the payload's low byte (R76, R78). -/
theorem decode_eq_setExt_iff {w : CmdWord} {v : Byte} :
    decode w = .setExt v ↔ CmdWord.op w = 0b10 ∧ v = (CmdWord.payload w).extractLsb' 0 8 := by
  refine ⟨fun h => ?_, fun ⟨hop, hv⟩ => ?_⟩
  · have hop : CmdWord.op w = 0b10 := by rw [op_eq_decode_opcode_bits, h]; rfl
    rw [decode_of_op hop, decode_ofParts_setExt, Instr.setExt.injEq] at h
    exact ⟨hop, h.symm⟩
  · rw [decode_of_op hop, decode_ofParts_setExt, hv]

/-- Only `cmd_op = 0b11` spells EMIT, and it always does (R76). -/
theorem decode_eq_emit_iff {w : CmdWord} : decode w = .emit ↔ CmdWord.op w = 0b11 :=
  ⟨fun h => by_contra fun hop => decode_ne_emit hop h, decode_of_op_emit⟩

/-! ### What an edge writes -/

/-- Settles O42: only reset and commands write the register, and of the commands LOAD and SET_EXT. -/
theorem packetRegisterWriters : Obligations.PacketRegisterWriters := by
  intro s t h
  rcases step_cases h with ⟨hr, rfl⟩ | ⟨hr, -, hb, hc, he⟩ | ⟨-, -, -, -, rfl⟩ | ⟨-, -, -, -, rfl⟩ | ⟨-, -, -, -, rfl⟩
  · exact .inr (.inl ⟨hr, rfl⟩)
  · have ha : s.accepts s.portIn = true := accepts_of_idle hb hr hc
    rcases exec_pkt he with hkept | hload | ⟨v, hset, hv, hpkt⟩
    · exact .inl hkept
    · obtain ⟨hop, hpkt⟩ := decode_eq_load_iff.1 hload
      rw [portIn_word_op] at hop
      rw [portIn_word_payload] at hpkt
      exact .inr (.inr (.inl ⟨ha, hop, hpkt⟩))
    · obtain ⟨hop, rfl⟩ := decode_eq_setExt_iff.1 hset
      rw [portIn_word_op] at hop
      rw [portIn_word_payload] at hpkt
      exact .inr (.inr (.inr ⟨ha, hop, hv, hpkt⟩))
  · exact .inl (transferByte_outside s.advance).1
  · exact .inl rfl
  · exact .inl rfl

/-- Settles O43: without reset only a transfer and an accepted EMIT append to the history. -/
theorem historyOnlyGrows : Obligations.HistoryOnlyGrows := by
  intro s t h hrst
  rcases step_cases h with ⟨hr, -⟩ | ⟨hr, -, hb, hc, he⟩ | ⟨hr, -, hb, ho, rfl⟩ | ⟨-, -, -, -, rfl⟩ | ⟨-, -, -, -, rfl⟩
  · simp [hrst] at hr
  · rcases exec_history he with hkept | ⟨hemit, hv, hl, rfl⟩
    · exact .inl hkept
    · have hop := decode_eq_emit_iff.1 hemit
      rw [portIn_word_op] at hop
      exact .inr (.inr ⟨accepts_of_idle hb hr hc, hop, hv, hl, emitBytes_out _ _⟩)
  · obtain ⟨-, -, -, -, hout, -⟩ := transferByte_outside s.advance
    exact .inr (.inl ⟨transfers_of_busy hr hb ho, hout⟩)
  · exact .inl rfl
  · exact .inl rfl

/-! ### Progress -/

/-- After any edge the FFA has been reset: an edge before the first reset has no next state (R141). -/
theorem step_hasReset {s t : State} (h : step s = .next t) : t.hasReset = true := by
  rcases step_cases h with ⟨-, rfl⟩ | ⟨-, hh, -, -, he⟩ | ⟨-, hh, -, -, rfl⟩ | ⟨-, hh, -, -, rfl⟩ | ⟨-, hh, -, -, rfl⟩
  · rfl
  · exact (exec_outside he).1.trans hh
  · obtain ⟨-, -, -, -, -, hkept, -⟩ := transferByte_outside s.advance
    exact hkept.trans hh
  · exact hh
  · exact hh

/-- Settles O5: every edge after a reset answers, and an edge that answers leaves the FFA reset. -/
theorem everyEdgeHasNextState : Obligations.EveryEdgeHasNextState := fun _ hr =>
  have ⟨t, ht⟩ := step_answers (.inl hr)
  ⟨t, ht, step_hasReset ht⟩

/-! ### The frame of each command -/

/-- Only ILLEGAL raises IllegalOp (R120). -/
theorem exec_errIllegal {i : Instr} {s t : State} (h : exec i s = .next t) (hi : i ≠ .illegal) :
    t.errIllegal = s.errIllegal := by
  rcases exec_cases h with ⟨hill, -⟩ | ⟨p, -, rfl⟩ | ⟨v, -, -, rfl⟩ | ⟨-, -, -, rfl⟩ | ⟨-, -, -, rfl⟩ | ⟨-, -, rfl⟩
  · exact absurd hill hi
  · simp
  · simp
  · simp
  · simp
  · simp

/-- Only SET_EXT and EMIT raise NoPacket (R121). -/
theorem exec_errNopkt {i : Instr} {s t : State} (h : exec i s = .next t) (hset : ∀ v, i ≠ .setExt v) (hemit : i ≠ .emit) :
    t.errNopkt = s.errNopkt := by
  rcases exec_cases h with ⟨-, rfl⟩ | ⟨p, -, rfl⟩ | ⟨v, hi, -⟩ | ⟨hi, -⟩ | ⟨hi, -⟩ | ⟨hi | ⟨v, hi⟩, -⟩
  · simp
  · simp
  · exact absurd hi (hset v)
  · exact absurd hi hemit
  · exact absurd hi hemit
  · exact absurd hi hemit
  · exact absurd hi (hset v)

/-- A command that is no LOAD writes no field of the Packet but the extended byte (R91). -/
theorem exec_pkt_of_ne_load {i : Instr} {s t : State} (h : exec i s = .next t) (hi : ∀ p, i ≠ .load p) :
    { t.pkt with ext := s.pkt.ext } = s.pkt := by
  rcases exec_pkt h with hkept | hload | ⟨v, -, -, hpkt⟩
  · rw [hkept]
  · exact absurd hload (hi _)
  · rw [hpkt]

/-- Settles O35: each clause by the lemma on its field. -/
theorem commandFrames : Obligations.CommandFrames := by
  intro i s t h
  obtain ⟨hreset, hlevel, hinputs, hedge, hstream⟩ := exec_outside h
  refine ⟨hreset, hlevel, hinputs, hedge, hstream, exec_emitter_of_ne_emit h, exec_errIllegal h, exec_errNopkt h,
    fun hi => ⟨?valid, exec_pkt_of_ne_load h hi⟩, fun hi => ?pkt, fun _ hl => ?emitter, fun _ hl => ?history⟩
  case valid => exact (exec_pktValid h).elim (fun ⟨⟨p, hload⟩, _⟩ => absurd hload (hi p)) And.right
  case pkt =>
    rcases exec_pkt h with hkept | hload | ⟨v, hset, -⟩
    · exact hkept
    · simp [hload] at hi
    · simp [hset] at hi
  case emitter => exact (exec_emitter h).resolve_right fun ⟨_, _, hcycle, _⟩ => by simp [hl] at hcycle
  case history => exact (exec_history h).resolve_right fun ⟨_, _, htrans, _⟩ => by simp [hl] at htrans

/-- Settles O34: EMIT appends the frame of a Packet it keeps; a LOAD, and a SET_EXT with a Packet or without one, writes what it
wrote before. -/
theorem commandsRepeat : Obligations.CommandsRepeat := by
  refine ⟨fun s hv hl => ?emit, fun s p => ⟨_, exec_load p s, exec_load p _⟩, fun s v => ?setExt⟩
  case emit =>
    exact ⟨_, _, execEmit_of_transaction hv hl, execEmit_of_transaction hv hl, List.append_assoc .., rfl, hv⟩
  case setExt =>
    cases hv : s.pktValid with
    | true => exact ⟨_, execSetExt_of_pktValid hv v, execSetExt_of_pktValid (s := s.overrideExt v) hv v⟩
    | false => exact ⟨_, execSetExt_of_not_pktValid hv v, execSetExt_of_not_pktValid (s := s.raise .noPacket) hv v⟩

end Sys2Proof.Machine
end

section
/-! The lines the assembler takes and the words of the plain ones (30_encoding R83, R85). -/

namespace Sys2Proof.Machine

/-- The assembler takes exactly the well-formed lines (R85). -/
theorem exists_asmLine_ok_iff (l : AsmLine) : (∃ ws, asmLine l = .ok ws) ↔ l.wellFormed = true := by
  refine ⟨fun ⟨ws, h⟩ => ?_, fun h => ⟨_, asmLine_eq_ok h rfl⟩⟩
  rw [asmLine] at h
  split_ifs at h with hcount hrange
  exact Bool.and_eq_true_iff.2 ⟨by simpa using hcount, by simpa using hrange⟩

/-- A property of the pairs of two lists, by the place of each pair. -/
theorem forall_mem_zip_iff {α β : Type} (as : List α) (bs : List β) (P : α → β → Prop) :
    (∀ ab ∈ as.zip bs, P ab.1 ab.2) ↔ ∀ (i : Nat) (a : α) (b : β), as[i]? = some a → bs[i]? = some b → P a b := by
  constructor
  · intro h i a b ha hb
    exact h (a, b) (List.mem_of_getElem? (List.getElem?_zip_eq_some.2 ⟨ha, hb⟩))
  · rintro h ⟨a, b⟩ hab
    obtain ⟨i, hi⟩ := List.mem_iff_getElem?.1 hab
    obtain ⟨ha, hb⟩ := List.getElem?_zip_eq_some.1 hi
    exact h i a b ha hb

/-- Settles O25: a taken line is a well-formed one, and its range check runs over the places of operand and width. -/
theorem assemblerOperandRefusal : Obligations.AssemblerOperandRefusal := by
  intro l
  rw [exists_asmLine_ok_iff, wellFormed_iff, forall_mem_zip_iff _ _ fun v w => v < 2 ^ w]

/-- An opcode and a payload fit the two operands of `.word` (R85). -/
theorem wellFormed_wordOperands (op : BitVec 2) (pl : Payload) : AsmLine.wellFormed ⟨.word, [op.toNat, pl.toNat]⟩ = true := by
  rw [wellFormed_iff]
  simp [Mnemonic.widths, BitVec.isLt, -Nat.reducePow]

/-- Settles O27: each line passes the checks of R85, and its word is that of its command, or the one written. -/
theorem assembledLinesDecode : Obligations.AssembledLinesDecode := by
  refine ⟨fun p => ⟨encode (.load p), ?load, decodeEncode _⟩, fun v => ?setExt, ?emit, fun op pl => ?word⟩
  case load => exact asmLine_eq_ok (wellFormed_packetOperands rfl p) (loadWords_packetOperands p)
  case setExt => exact asmLine_eq_ok (wellFormed_byteOperand rfl v) (congrArg (fun w => [w]) (setExtWord_toNat v))
  case emit => exact asmLine_eq_ok rfl rfl
  case word =>
    exact asmLine_eq_ok (wellFormed_wordOperands op pl) (by simp [asmWords])

/-- Settles O24: each word decodes by its opcode, and the LOAD's and the SET_EXT's payloads are read field by field. -/
theorem writtenWordsDecode : Obligations.WrittenWordsDecode :=
  ⟨decode_ofParts_load _, decode_ofParts_setExt _, decode_ofParts_illegal _, decode_ofParts_emit _⟩

end Sys2Proof.Machine
end

section
/-! The status word (10_state R30), edges before the first reset (70_reset_and_hazards R141), and a command offered as the opcode
table numbers it (30_encoding R76). -/

namespace Sys2Proof.Machine

/-- Settles O1: the reset state is written down with the table's values, and its ports and status are read off it. -/
theorem resetValues : Obligations.ResetValues :=
  ⟨rfl, rfl, rfl, rfl, rfl, rfl, rfl, rfl, rfl, rfl, rfl⟩

/-! ### The status word -/

/-- `status[0]` is `pkt_valid` (R30). -/
theorem status_getLsbD_zero (s : State) : s.status.getLsbD 0 = s.pktValid := by
  simp only [State.status, BitVec.getLsbD_append, BitVec.getLsbD_ofBool]
  simp

/-- `status[1]` is `busy` (R30). -/
theorem status_getLsbD_one (s : State) : s.status.getLsbD 1 = s.busy := by
  simp only [State.status, BitVec.getLsbD_append, BitVec.getLsbD_ofBool]
  simp

/-- Four bits, the first the most significant, as a number. -/
theorem toNat_append_ofBool : ∀ a b c d : Bool,
    (BitVec.ofBool a ++ BitVec.ofBool b ++ BitVec.ofBool c ++ BitVec.ofBool d).toNat =
      8 * a.toNat + 4 * b.toNat + 2 * c.toNat + d.toNat := by
  decide

/-- Settles O7: each bit by its place, and the value from the four bits. -/
theorem statusWordLayout : Obligations.StatusWordLayout := fun s =>
  ⟨status_getLsbD_zero s, status_getLsbD_one s, status_getLsbD_two s, status_getLsbD_three s, toNat_append_ofBool _ _ _ _⟩

/-! ### Before the first reset -/

theorem edgeKind_of_not_hasReset {s : State} {p : PortIn} (h : s.hasReset = false) (hrst : p.rst = false) :
    s.edgeKind p = .beforeReset := by
  simp [State.edgeKind, h, hrst]

/-- Settles O4: such an edge is one before the first reset. -/
theorem edgesBeforeResetRefused : Obligations.EdgesBeforeResetRefused := by
  intro s h hrst
  rw [step, clockEdge, edgeKind_advance, edgeKind_of_not_hasReset h hrst]

/-! ### The edge that accepts a command -/

/-- Settles O48: the offered command is accepted. -/
theorem stepRunsAcceptedCommand : Obligations.StepRunsAcceptedCommand := fun _ hr hb hrst hc =>
  step_of_accepts hr (accepts_of_idle hb hrst hc)

/-- A table word's command is that of its two parts, read from the low end (log entry 7). -/
theorem decodeTableWord_eq_some {nbits w : Nat} {i : Instr} (h : decodeTableWord nbits w = some i) :
    decode (CmdWord.ofParts (BitVec.ofNat 2 (w % 2 ^ nbits)) (BitVec.ofNat 120 (w % 2 ^ nbits / 4))) = i := by
  rw [decodeTableWord] at h
  split at h
  · exact Option.some.inj h
  · cases h

/-- Settles O49: the FFA made ready accepts the word offered to it. -/
theorem withFetchWordRunsIt : Obligations.WithFetchWordRunsIt := by
  intro s nbits w i h
  obtain rfl := decodeTableWord_eq_some h
  exact step_of_accepts (s := s.withFetchWord nbits w) rfl rfl

end Sys2Proof.Machine
end

section
/-! A frame in flight counted in edges (41_frame_emit R114), and the end of the run of a command sequence (70_reset_and_hazards
R153). -/

namespace Sys2Proof.Machine

/-! ### A frame in flight -/

/-- Settles O55: a frame just started is one with no byte transferred. -/
theorem frameInFlight : Obligations.FrameInFlight := by
  intro s ins rest hr hb hidx hacc hin hins hready
  have hstart : s.startFrame = s := by rw [State.startFrame, ← hb, ← hidx, ← hacc]
  have hrun := run_sending hr ins rest hins 0 0 (by omega)
  rw [← startFrame_eq_sending hin, hstart, Nat.zero_add, Nat.zero_add] at hrun
  rw [hrun, State.sending, ← hb]

/-- From the accept edge of EMIT over any edges without reset, as long as the checksum is not transferred: the frame is in flight,
with a byte transferred for each edge with the sink ready (R108, R110, R111). -/
theorem run_sending_of_offersEmit {s : State} {accept : PortIn} {ins rest : List PortIn}
    (h : s.OffersEmit accept (ins ++ rest)) (hins : NoReset ins) (hready : readyEdges ins ≤ 16) :
    run (ins.length + 1) s = .next (s.sending (readyEdges ins) (1 + ins.length) rest) := by
  have hrun := run_sending h.hasReset ins rest hins 0 1 (by omega)
  rw [Nat.zero_add] at hrun
  rw [run_succ _ (step_of_offersEmit h), hrun]

theorem readyEdges_le_length (ins : List PortIn) : readyEdges ins ≤ ins.length := List.countP_le_length

/-- When all edges of a list have the sink ready, so has the last, and all those before it. -/
theorem exists_front_last_of_all_ready {ins : List PortIn} {n : Nat} (hlen : ins.length = n + 1)
    (hready : readyEdges ins = n + 1) :
    ∃ front last, ins = front ++ [last] ∧ front.length = n ∧ readyEdges front = n ∧ last.outReady = true := by
  have hall : ∀ p ∈ ins, p.outReady = true := List.countP_eq_length.1 (hready.trans hlen.symm)
  rcases List.eq_nil_or_concat' ins with rfl | ⟨front, last, rfl⟩
  · simp at hlen
  have hfront : front.length = n := by simpa using hlen
  refine ⟨front, last, rfl, hfront, ?_, hall last (by simp)⟩
  rw [← hfront]
  exact List.countP_eq_length.2 fun p hp => hall p (by simp [hp])

/-- Settles O57: sixteen edges cannot transfer the seventeen bytes, and seventeen ready ones do. -/
theorem emitTakesEighteenEdges : Obligations.EmitTakesEighteenEdges := by
  intro s accept ins rest hr hidle hv hl hin hrst hvalid hop hins
  have hemit : s.OffersEmit accept (ins ++ rest) := ⟨hr, hidle, hv, hl, hin, hrst, hvalid, hop⟩
  refine ⟨fun hlen => ?busy, fun hlen hready => ?done⟩
  case busy =>
    exact ⟨_, run_sending_of_offersEmit hemit hins ((readyEdges_le_length ins).trans hlen), rfl, rfl⟩
  case done =>
    obtain ⟨front, last, rfl, hlen', hready', ho⟩ := exists_front_last_of_all_ready hlen hready
    rw [List.append_assoc] at hemit
    have hrun := run_of_offersEmit hemit (fun p hp => hins p (by simp [hp])) hready' (hins last (by simp)) ho
    rw [hlen'] at hrun
    exact ⟨_, hrun, hidle.1, (cmdReady_eq_true_iff ..).2 ⟨hidle.1, rfl⟩⟩

/-! ### Which commands a run accepts -/

theorem acceptedWord_of_accepts {s : State} (hr : s.hasReset = true) (h : s.accepts s.portIn = true) :
    s.acceptedWord = some s.portIn.word :=
  have ⟨hvalid, _⟩ := (accepts_eq_true_iff ..).1 h
  acceptedWord_eq_some.2 ⟨hr, busy_of_accepts h, rst_of_accepts h, hvalid, rfl⟩

theorem acceptedWord_of_not_cmdValid {s : State} (h : s.portIn.cmdValid = false) : s.acceptedWord = none := by
  refine Option.eq_none_iff_forall_ne_some.2 fun w hw => ?_
  obtain ⟨-, -, -, hvalid, -⟩ := acceptedWord_eq_some.1 hw
  simp [h] at hvalid

/-- A run whose edges all find a frame in flight accepts no command (R146). -/
theorem acceptedWords_of_busy {s : State} {k : Nat} (h : ∀ j < k, ∀ t, run j s = .next t → t.busy = true) :
    acceptedWords k s = [] := by
  induction k generalizing s with
  | zero => rfl
  | succ k ih =>
    have hnone := acceptedWord_busy (h 0 (Nat.succ_pos k) s rfl)
    cases hs : step s with
    | next u =>
      have hrest : acceptedWords k u = [] := ih fun j hj t ht => h (j + 1) (by omega) t ((run_succ j hs).trans ht)
      rw [acceptedWords_succ k hs, hnone, hrest]
      rfl
    | fault r => cases r
    | refused r => simp [acceptedWords, hnone, hs]

/-- Edges without reset and without a command, at an idle FFA: it stands still and accepts nothing (R112). -/
theorem run_quiet {s : State} {ins rest : List PortIn} (hr : s.hasReset = true) (hb : s.busy = false)
    (hin : s.inputs = ins ++ rest) (hins : NoReset ins) (hquiet : ∀ p ∈ ins, p.cmdValid = false) :
    run ins.length s = .next { s with inputs := rest, edge := s.edge + ins.length } ∧ acceptedWords ins.length s = [] := by
  induction ins generalizing s with
  | nil =>
    obtain rfl : s.inputs = rest := hin
    exact ⟨rfl, rfl⟩
  | cons p ps ih =>
    obtain ⟨hrst, hps⟩ := noReset_cons.1 hins
    obtain ⟨hc, hquiet'⟩ := List.forall_mem_cons.1 hquiet
    have hp : s.portIn = p := portIn_of_inputs hin
    rw [← hp] at hrst hc
    have hidle : step s = .next s.advance := step_of_idle hr hrst hb (accepts_of_not_cmdValid hc)
    have htail : s.advance.inputs = ps ++ rest := by rw [advance_inputs, hin, List.cons_append, List.tail_cons]
    obtain ⟨hrun, hwords⟩ := ih (s := s.advance) hr hb htail hps hquiet'
    rw [List.length_cons, run_succ _ hidle, acceptedWords_succ _ hidle, hrun, hwords, acceptedWord_of_not_cmdValid hc,
      advance_edge, Nat.add_assoc, Nat.add_comm 1]
    exact ⟨rfl, rfl⟩

/-! ### Where a run ends -/

/-- The run of a sequence of commands does not end before an edge has passed. -/
theorem not_drained_zero {cmds : List CmdWord} (h : cmds ≠ []) (s t : State) : ¬Drained cmds s 0 t :=
  fun ⟨_, hwords, _⟩ => h hwords.symm

/-- The run of a command sequence ends once: two ends are each the first (R153). -/
theorem RunEndsAt.unique {cmds : List CmdWord} {s t t' : State} {k k' : Nat} (h : RunEndsAt cmds s k t)
    (h' : RunEndsAt cmds s k' t') : k' = k ∧ t' = t := by
  obtain ⟨hdrained, hfirst⟩ := h
  obtain ⟨hdrained', hfirst'⟩ := h'
  have hk : k' = k :=
    Nat.le_antisymm (Nat.le_of_not_lt fun hlt => hfirst' k hlt t hdrained)
      (Nat.le_of_not_lt fun hlt => hfirst k' hlt t' hdrained')
  subst hk
  exact ⟨rfl, Host.Outcome.next.inj (hdrained'.1.symm.trans hdrained.1)⟩

/-- A command whose edge leaves no frame in flight ends its run with that edge (R94, R153). -/
theorem runEndsAt_one {s t : State} (hr : s.hasReset = true) (ha : s.accepts s.portIn = true) (hs : step s = .next t)
    (hb : t.busy = false) : RunEndsAt [s.portIn.word] s 1 t := by
  refine ⟨⟨run_succ 0 hs, ?_, hb⟩, fun j hj u => ?_⟩
  · rw [acceptedWords_succ 0 hs, acceptedWord_of_accepts hr ha]
    rfl
  · obtain rfl : j = 0 := by omega
    exact not_drained_zero (List.cons_ne_nil _ _) s u

/-- After the accept edge of EMIT the frame stays in flight until byte 16 is transferred. -/
theorem busy_of_offersEmit {s t : State} {accept : PortIn} {ins rest : List PortIn}
    (h : s.OffersEmit accept (ins ++ rest)) (hins : NoReset ins) (hready : readyEdges ins ≤ 16) {j : Nat}
    (hj : j ≤ ins.length) (ht : run (j + 1) s = .next t) : t.busy = true := by
  rw [← List.take_append_drop j ins, List.append_assoc] at h
  have hready' : readyEdges (ins.take j) ≤ 16 := (List.take_sublist j ins).countP_le.trans hready
  have hrun := run_sending_of_offersEmit h (fun p hp => hins p (List.mem_of_mem_take hp)) hready'
  rw [List.length_take, Nat.min_eq_left hj, ht, Host.Outcome.next.injEq] at hrun
  rw [hrun]
  rfl

/-- An EMIT that puts its frame in flight ends its run with the edge that transfers byte 16 (R153). -/
theorem runEndsAt_of_offersEmit {s : State} {accept last : PortIn} {ins rest : List PortIn}
    (h : s.OffersEmit accept (ins ++ last :: rest)) (hins : NoReset ins) (hready : readyEdges ins = 16)
    (hlast : last.rst = false) (ho : last.outReady = true) :
    RunEndsAt [accept.word] s (ins.length + 2)
      { s with out := s.out ++ frame s.pkt, inputs := rest, edge := s.edge + (ins.length + 2) } := by
  have hbusy : ∀ j ≤ ins.length, ∀ t, run (j + 1) s = .next t → t.busy = true := fun j hj t =>
    busy_of_offersEmit h hins hready.le hj
  refine ⟨⟨run_of_offersEmit h hins hready hlast ho, ?words, h.idle.1⟩, fun j hj u hdrained => ?first⟩
  case words =>
    have hstep := step_of_offersEmit h
    have hp : s.portIn = accept := portIn_of_inputs h.inputs
    have hword : s.acceptedWord = some accept.word :=
      acceptedWord_eq_some.2 ⟨h.hasReset, h.idle.1, hp ▸ h.rst, hp ▸ h.cmdValid, by rw [hp]⟩
    have hrest : acceptedWords (ins.length + 1) (s.sending 0 1 (ins ++ last :: rest)) = [] :=
      acceptedWords_of_busy fun j hj t ht => hbusy j (by omega) t ((run_succ j hstep).trans ht)
    rw [acceptedWords_succ _ hstep, hword, hrest]
    rfl
  case first =>
    cases j with
    | zero => exact not_drained_zero (List.cons_ne_nil _ _) s u hdrained
    | succ j =>
      obtain ⟨hrun, -, hidle⟩ := hdrained
      simp [hbusy j (by omega) u hrun] at hidle

/-- Settles O59: an end is unique as the first one, quiet edges after it change nothing observed, and the two kinds of single
commands end with their own edge and with the transfer of byte 16. -/
theorem endOfRun : Obligations.EndOfRun := by
  refine ⟨fun cmds s t t' k k' => RunEndsAt.unique, ?quiet, ?short, ?emit⟩
  case quiet =>
    rintro cmds s t k ins rest ⟨⟨hrun, hwords, hb⟩, -⟩ hr hin hins hquiet
    obtain ⟨hrun', hwords'⟩ := run_quiet hr hb hin hins hquiet
    refine ⟨_, (run_add k _ hrun).trans hrun', rfl, ?_⟩
    rw [acceptedWords_add k _ hrun, hwords, hwords', List.append_nil]
  case short =>
    intro s hr ha hop
    obtain ⟨t, -, hs, hb, -⟩ := shortCommandsKeepReady s hr ha hop
    exact ⟨t, runEndsAt_one hr ha hs hb⟩
  case emit =>
    intro s accept last ins rest hr hidle hv hl hin hrst hvalid hop hins hready hlast ho
    exact ⟨_, runEndsAt_of_offersEmit ⟨hr, hidle, hv, hl, hin, hrst, hvalid, hop⟩ hins hready hlast ho, rfl⟩

end Sys2Proof.Machine
end

section
/-! Several FFAs (60_exceptions R131): what an edge at one of them does to the system. -/

namespace Sys2Proof.Machine

/-- An FFA read from a system draws its free values from the stream of its place (log entry 10). -/
theorem System.stream_of_ffa {sys : System} {k : Nat} {s : State} (h : sys.ffa k = some s) : s.stream = k := by
  obtain ⟨u, -, rfl⟩ := Option.map_eq_some_iff.1 h
  rfl

/-- Everything an edge at place `k` of a system can do when it answers: nothing, where no FFA is, or that FFA's own step. -/
theorem System.stepAt_cases {sys sys' : System} {k : Nat} (h : sys.stepAt k = .next sys') :
    (sys.ffa k = none ∧ sys' = sys) ∨
    ∃ s t, sys.ffa k = some s ∧ step s = .next t ∧ sys' = { sys with states := sys.states.set k t } := by
  rw [System.stepAt] at h
  cases hf : sys.ffa k with
  | none =>
    simp only [hf, Host.Outcome.next.injEq] at h
    exact .inl ⟨rfl, h.symm⟩
  | some s =>
    simp only [hf] at h
    cases hs : step s with
    | next t =>
      simp only [hs, Host.Outcome.next.injEq] at h
      exact .inr ⟨s, t, rfl, hs, h.symm⟩
    | fault r => cases r
    | refused r => simp [hs] at h

/-- Writing one FFA leaves those at other places (R131). -/
theorem System.ffa_set_ne (sys : System) (t : State) {j k : Nat} (h : j ≠ k) :
    ({ sys with states := sys.states.set k t } : System).ffa j = sys.ffa j := by
  simp [System.ffa, List.getElem?_set_ne h.symm]

/-- Where an FFA stands, one of that place's stream can be written and read back. -/
theorem System.ffa_set_self {sys : System} {s t : State} {k : Nat} (h : sys.ffa k = some s) (ht : t.stream = k) :
    ({ sys with states := sys.states.set k t } : System).ffa k = some t := by
  obtain ⟨u, hu, -⟩ := Option.map_eq_some_iff.1 h
  obtain ⟨hk, -⟩ := List.getElem?_eq_some_iff.1 hu
  subst ht
  simp [System.ffa, List.getElem?_set_self hk]

/-- Settles O60: an edge at a place writes that place alone, with its FFA's own next state, which keeps its stream. -/
theorem instancesAreIndependent : Obligations.InstancesAreIndependent := by
  refine ⟨fun sys sys' k h => ?edge, fun sys j k s t hj hk hst => ?stream⟩
  case edge =>
    rcases System.stepAt_cases h with ⟨hnone, rfl⟩ | ⟨s, t, hs, ht, rfl⟩
    · exact ⟨rfl, fun _ _ => rfl, fun s hs => by simp [hnone] at hs⟩
    · refine ⟨List.length_set, fun j hj => System.ffa_set_ne sys t hj, fun s' hs' => ⟨t, ?_, ?_⟩⟩
      · obtain rfl : s = s' := Option.some.inj (hs.symm.trans hs')
        exact ht
      · exact System.ffa_set_self hs ((step_stream ht).trans (System.stream_of_ffa hs))
  case stream => rw [← System.stream_of_ffa hj, hst, System.stream_of_ffa hk]

end Sys2Proof.Machine
end
